-- ==== Sys2Proof/Word.lean ====
section
/-! DEFINITION. Bytes, register words and the two register widths of the block (00_scope.md R10, R15). -/

namespace Sys2Proof

/-- A byte. -/
abbrev Byte := BitVec 8

/-- What a register holds. Registers are `W` bits wide (R30); the model stores 64 bits and keeps the bits above `W`
zero (assumption log 6). -/
abbrev Word := BitVec 64

/-- The pointer width `W`, 32 or 64 (R10). -/
inductive Width where
  | w32
  | w64
deriving DecidableEq, Repr

/-- `W` as a number. -/
def Width.bits : Width → Nat
  | .w32 => 32
  | .w64 => 64

/-- `W/8`, the size of a list word (R160). -/
def Width.bytes : Width → Nat
  | .w32 => 4
  | .w64 => 8

/-- `2^W`: every address, length and register value lies below it (R10). -/
def Width.limit (w : Width) : Nat := 2 ^ w.bits

/-- What a `W`-bit register keeps of a 64-bit value: `v[W-1:0]` (R132). -/
def Width.trunc : Width → Word → Word
  | .w32, v => (v.setWidth 32).setWidth 64
  | .w64, v => v

/-- A natural number as a register word. -/
abbrev wordOf (n : Nat) : Word := BitVec.ofNat 64 n

end Sys2Proof
end

