-- ==== Sys2Proof/Config.lean ====
section
/-! DEFINITION. What the spec leaves to the platform (00_scope.md R11, R13; 10_state.md R56; 30_encoding.md R152), the
constants it fixes (R12), and the free values (93_implementation_defined.md, treatment "any value"). -/

namespace Sys2Proof

/-! ### Constants of R12 -/

/-- `PAGE_BYTES`: the most bytes of one page program (R12). -/
def pageBytes : Nat := 256

/-- `WORD_BYTES`: the bytes of one data store (R12). -/
def wordBytes : Nat := 4

/-- `ERASE_RETRY`: the most attempts of ERASE_BLOCK_RETRY (R12). -/
def eraseRetry : Nat := 10

/-- `ERASED_BYTE`: what an erased byte reads as (R12, R102). -/
def erasedByte : Byte := 0xFF

/-! ### Parameters -/

/-- The configuration record `CFG` (R56). Fields of `W` bits are words below `2^W` (`Platform.WF`). -/
structure Cfg where
  /-- The configuration exists; otherwise INIT finishes CONFIG_MISSING. -/
  present : Bool
  /-- The bus transaction capability can be located; otherwise INIT finishes DEVICE_ERROR. -/
  capabilityPresent : Bool
  /-- Setup resources are available; otherwise INIT finishes OUT_OF_RESOURCES. -/
  resourcesOk : Bool
  ctrlBase : Word
  writeOp : Byte
  eraseOp : Byte
  ppOp : Byte
  devBase : Word
  regionBase : Word
  regionSize : Word
  blockSize : Word
  tag : BitVec 128
deriving DecidableEq, Repr

/-- The five controller ports (R152). -/
inductive Port where
  | command
  | load
  | writeConfig
  | flush
  | address
deriving DecidableEq, Repr

/-- `PORT_OFFSET[p]` for each controller port (R86, R152). -/
structure PortOffsets where
  command : Word
  load : Word
  writeConfig : Word
  flush : Word
  address : Word
deriving DecidableEq, Repr

/-- `PORT_OFFSET[p]` (R86). -/
def PortOffsets.at (o : PortOffsets) : Port → Word
  | .command => o.command
  | .load => o.load
  | .writeConfig => o.writeConfig
  | .flush => o.flush
  | .address => o.address

/-- `ERASE_COMPLETION` (R103). -/
inductive EraseCompletion where
  | immediate
  | async
deriving DecidableEq, Repr

/-- The parameters of R13, R56 and R152 as one record. The spec makes them parameters and no state; the model holds
them in a field of State that no step of the block changes, so that a statement about every state is a statement about
every platform (assumption log 2). The widths of the control values are the model's (assumption log 17). -/
structure Platform where
  /-- `W` (R10). -/
  width : Width
  /-- `BLOCK_BASE` (R131), an address below `2^W` (`Platform.BankOk`). -/
  blockBase : Nat
  /-- `CFG` (R56). -/
  cfg : Cfg
  /-- `FLASH_SIZE` (R82). -/
  flashSize : Nat
  /-- `PORT_OFFSET` (R152). -/
  ports : PortOffsets
  /-- `CTRL_FIXED` (R152). -/
  ctrlFixed : Word
  /-- `LOAD_VALUE` (R152). -/
  loadValue : Word
  /-- `WE_VALUE` (R152). -/
  weValue : Word
  /-- `WE_CLEAR_VALUE` (R152). -/
  weClearValue : Word
  /-- `FLUSH_VALUE` (R152). -/
  flushValue : Word
  /-- `REG_WCFG` (R150). -/
  regWcfg : Word
  /-- `REG_FLUSH` (R150). -/
  regFlush : Word
  /-- `ATTR_INIT` (R46). -/
  attrInit : BitVec 32
  /-- `ERASE_COMPLETION` (R103). -/
  eraseCompletion : EraseCompletion
  /-- `POLL_LIMIT`; `none` is the spec's ∞ (R263). -/
  pollLimit : Option Nat
  /-- `HOST_OK` as data: the (base, size) ranges of host memory the block may use (R85; assumption log 12). -/
  hostRanges : List (Nat × Nat)
deriving DecidableEq, Repr

/-- `2^W` of a platform. -/
def Platform.limit (p : Platform) : Nat := p.width.limit

/-- `[a, a+n)` is inside `[b, b+m)` (R18). -/
abbrev inside (a n b m : Nat) : Prop := n = 0 ∨ (b ≤ a ∧ a + n ≤ b + m)

/-- `HOST_OK(a, n)`: the range lies inside one admitted range; it holds for every empty range (R85). -/
abbrev Platform.hostOk (p : Platform) (a n : Nat) : Prop := n = 0 ∨ ∃ r ∈ p.hostRanges, inside a n r.1 r.2

/-- Configuration EX of 95_test_vectors.md §1, the spec's own example. The control values, which EX leaves symbolic, and
`BLOCK_BASE` are the model's (assumption log 2). DESIGN CHOICE, unsafe only for a statement about `State.reset`. -/
def Platform.ex : Platform where
  width := .w64
  blockBase := 0x40000000
  cfg := {
    present := true
    capabilityPresent := true
    resourcesOk := true
    ctrlBase := 0x20000000
    writeOp := 0x06
    eraseOp := 0xD8
    ppOp := 0x02
    devBase := 0x10000000
    regionBase := 0x11000000
    regionSize := 0x1000000
    blockSize := 0x10000
    tag := 0x0123456789ABCDEFFEDCBA9876543210 }
  flashSize := 0x2000000
  ports := { command := 0x00, load := 0x08, writeConfig := 0x10, flush := 0x18, address := 0x20 }
  ctrlFixed := 0xC1
  loadValue := 0xC2
  weValue := 0xC3
  weClearValue := 0xC4
  flushValue := 0xC5
  regWcfg := 0xC6
  regFlush := 0xC7
  attrInit := 0
  eraseCompletion := .immediate
  pollLimit := none
  hostRanges := [(0x80000000, 0x100000)]

/-! ### Free values (`draw()` of R16) -/

/-- The free inputs of one micro-step: each is one `draw()` of the spec, under no law (R16, R90, R107, R158). -/
structure Draw where
  /-- A configure event is answered OK (R158). -/
  ok : Bool
  /-- The byte a window read gives where R90 says `draw()`. -/
  byte : Byte
  /-- The first component of a drawn POLL answer (R107). -/
  pollBusy : Bool
  /-- The second component of a drawn POLL answer (R107). -/
  pollOk : Bool
deriving DecidableEq, Repr, Inhabited

/-- The chip's free choices between two micro-steps: whether it completes a pending erase now, which one, and how
(R104, I36). -/
structure ChipDraw where
  acts : Bool
  index : Nat
  success : Bool
deriving DecidableEq, Repr, Inhabited

/-- The `n`th free input of the sequencer's own moves; it has no body, so nothing can be proved of its value
(assumption log 4). -/
opaque Config.draw : Nat → Draw

/-- The `n`th free choice of the chip (assumption log 5). -/
opaque Config.chipDraw : Nat → ChipDraw

/-- The data a host read returns when it raises a fault: the spec gives none (assumption log 15). -/
opaque Config.faultedRead : Nat → Word

end Sys2Proof
end

