-- ==== Sys2Proof/Syntax.lean ====
section
/-! DEFINITION. The sixteen commands (30_encoding.md R141), one constructor per row of opcode_table.json, and the lines
of host programs (R162). -/

namespace Sys2Proof

/-- The commands of R141, in the table's order. A command word carries no operand: operands are the contents of ARG0 to
ARG3 (R140, R142), so no constructor has a field (assumption log 1). -/
inductive Instr where
  | init
  | read
  | writeChunk
  | write
  | eraseSingleBlock
  | erase
  | getDevices
  | eraseBlockRetry
  | getBlockSize
  | fvbRead
  | fvbWrite
  | eraseBlocks
  | getAttributes
  | setAttributes
  | getPhysicalAddress
  | relocate
deriving DecidableEq, Repr

/-- How many of ARG0 to ARG3 the command names (R142). -/
def Instr.arity : Instr → Nat
  | .init => 0
  | .read => 3
  | .writeChunk => 3
  | .write => 3
  | .eraseSingleBlock => 1
  | .erase => 2
  | .getDevices => 1
  | .eraseBlockRetry => 1
  | .getBlockSize => 1
  | .fvbRead => 4
  | .fvbWrite => 4
  | .eraseBlocks => 1
  | .getAttributes => 0
  | .setAttributes => 1
  | .getPhysicalAddress => 0
  | .relocate => 1

/-- One line of a host program, `MNEMONIC op0, op1, ...` (R162). -/
structure Line where
  instr : Instr
  operands : List Nat
deriving DecidableEq, Repr

end Sys2Proof
end

