-- ==== Sys2Proof/WellFormed.lean ====
section
/-! DEFINITION. Well-formed platforms (10_state.md R57) and well-formed program lines (30_encoding.md R162). Every
command is well formed: a command word is its opcode and nothing else (R140), so there is no field to check. -/

namespace Sys2Proof

/-- A well-formed command: its opcode is one of R141, which every constructor's is. -/
def Instr.WF : Instr → Bool := fun _ => true

/-- The register bank lies inside the host register space, whose addresses are below `2^W` (R10, R80): its last register
is the 8 bytes at 0x098 (R131; assumption log 26). -/
abbrev Platform.BankOk (p : Platform) : Prop := p.blockBase + 0x0A0 ≤ p.limit

/-- Every admitted range of host memory exists, so it lies below `2^W` (R10, R80, R85; assumption log 26). -/
abbrev Platform.HostRangesOk (p : Platform) : Prop := ∀ r ∈ p.hostRanges, r.1 + r.2 ≤ p.limit

/-- The `W`-bit fields of CFG hold `W`-bit values (R56), `POLL_LIMIT` is positive (R13), and the addresses of the register
bank and of host memory are addresses (R10). -/
abbrev Platform.Typed (p : Platform) : Prop :=
  p.cfg.ctrlBase.toNat < p.limit ∧ p.cfg.devBase.toNat < p.limit ∧ p.cfg.regionBase.toNat < p.limit ∧
  p.cfg.regionSize.toNat < p.limit ∧ p.cfg.blockSize.toNat < p.limit ∧ p.pollLimit ≠ some 0 ∧ p.BankOk ∧
  p.HostRangesOk

/-- R57: the erase unit is not empty. -/
abbrev Platform.UnitOk (p : Platform) : Prop := 0 < p.cfg.blockSize.toNat

/-- R57: the window is not empty and is a whole number of erase units. -/
abbrev Platform.WindowSizeOk (p : Platform) : Prop := 0 < p.flashSize ∧ p.flashSize % p.cfg.blockSize.toNat = 0

/-- R57: the window ends inside the address space. -/
abbrev Platform.WindowEndOk (p : Platform) : Prop := p.cfg.devBase.toNat + p.flashSize ≤ p.limit

/-- R57: the region lies inside the window. -/
abbrev Platform.RegionOk (p : Platform) : Prop :=
  p.cfg.devBase.toNat ≤ p.cfg.regionBase.toNat ∧
  p.cfg.regionBase.toNat + p.cfg.regionSize.toNat ≤ p.cfg.devBase.toNat + p.flashSize

/-- R57: the region starts on an erase-unit boundary of the window. -/
abbrev Platform.RegionAligned (p : Platform) : Prop :=
  (p.cfg.regionBase.toNat - p.cfg.devBase.toNat) % p.cfg.blockSize.toNat = 0

/-- The port addresses formed from a controller base lie inside the address space (R57, R330). -/
abbrev Platform.PortsFit (p : Platform) (base : Nat) : Prop :=
  base + p.ports.command.toNat < p.limit ∧ base + p.ports.load.toNat < p.limit ∧
  base + p.ports.writeConfig.toNat < p.limit ∧ base + p.ports.flush.toNat < p.limit ∧
  base + p.ports.address.toNat < p.limit

/-- The part of R57 about the addresses of the descriptor and of the ports. -/
abbrev Platform.Geometry (p : Platform) : Prop :=
  p.UnitOk ∧ p.WindowSizeOk ∧ p.WindowEndOk ∧ p.RegionOk ∧ p.RegionAligned ∧ p.PortsFit p.cfg.ctrlBase.toNat

/-- A well-formed configuration (R57): a model is instantiated only with one, and refuses any other. -/
abbrev Platform.WF (p : Platform) : Prop := p.Typed ∧ (p.cfg.present = true → p.Geometry)

/-- A well-formed program line (R162): as many operands as the command names, each a `W`-bit value. -/
abbrev Line.WF (p : Platform) (l : Line) : Prop :=
  l.operands.length = l.instr.arity ∧ ∀ v ∈ l.operands, v < p.limit

end Sys2Proof
end

