-- ==== Sys2Proof/Decode.lean ====
section
/-! DEFINITION. The command word (30_encoding.md R140 to R144, R149), the register map (R131) and their encoders. -/

namespace Sys2Proof

/-- Why a command word is no command. -/
inductive DecodeError where
  /-- A reserved opcode (R143). -/
  | reservedOpcode (op : Byte)
deriving DecidableEq, Repr

/-- `OP = v[7:0]`; the other bits are neither stored nor checked (R140). -/
def opField (v : Word) : Byte := v.setWidth 8

/-- The opcode map (R141). -/
def opcode : Instr → Byte
  | .init => 0x01
  | .read => 0x02
  | .writeChunk => 0x03
  | .write => 0x04
  | .eraseSingleBlock => 0x05
  | .erase => 0x06
  | .getDevices => 0x07
  | .eraseBlockRetry => 0x08
  | .getBlockSize => 0x10
  | .fvbRead => 0x11
  | .fvbWrite => 0x12
  | .eraseBlocks => 0x13
  | .getAttributes => 0x14
  | .setAttributes => 0x15
  | .getPhysicalAddress => 0x16
  | .relocate => 0x20

/-- The command an opcode selects; every other value is reserved (R141, R143). -/
def decodeOp (op : Byte) : Except DecodeError Instr :=
  match op.toNat with
  | 0x01 => .ok .init
  | 0x02 => .ok .read
  | 0x03 => .ok .writeChunk
  | 0x04 => .ok .write
  | 0x05 => .ok .eraseSingleBlock
  | 0x06 => .ok .erase
  | 0x07 => .ok .getDevices
  | 0x08 => .ok .eraseBlockRetry
  | 0x10 => .ok .getBlockSize
  | 0x11 => .ok .fvbRead
  | 0x12 => .ok .fvbWrite
  | 0x13 => .ok .eraseBlocks
  | 0x14 => .ok .getAttributes
  | 0x15 => .ok .setAttributes
  | 0x16 => .ok .getPhysicalAddress
  | 0x20 => .ok .relocate
  | _ => .error (.reservedOpcode op)

/-- The command a word written to CMD stands for (R140): `OP` alone decides (R149). -/
def decode (v : Word) : Except DecodeError Instr := decodeOp (opField v)

/-- The command word of a command: its opcode, the ignored bits 0 (R140, R141). -/
def encode (i : Instr) : Word := (opcode i).setWidth 64

/-- The host's question (the fixed interface): the command read from a word of `nbits` bits, the bits above being 0. -/
def decodeTableWord (nbits w : Nat) : Option Instr :=
  match decode (wordOf (w % 2 ^ nbits)) with
  | .ok i => some i
  | .error _ => none

/-! ### The register map -/

/-- The registers of the bank (R30, R131). -/
inductive Reg where
  | cmd
  | arg0
  | arg1
  | arg2
  | arg3
  | status
  | result0
  | result1
  | retryCount
  | opcount
  | cmdset
  | ctrlBase
  | devBase
  | regionBase
  | regionSize
  | blockSize
  | tagLo
  | tagHi
  | totalBlocks
  | attr
deriving DecidableEq, Repr

/-- The byte offset of a register from `BLOCK_BASE` (R131). -/
def regOffset : Reg → Nat
  | .cmd => 0x000
  | .arg0 => 0x008
  | .arg1 => 0x010
  | .arg2 => 0x018
  | .arg3 => 0x020
  | .status => 0x028
  | .result0 => 0x030
  | .result1 => 0x038
  | .retryCount => 0x040
  | .opcount => 0x048
  | .cmdset => 0x050
  | .ctrlBase => 0x058
  | .devBase => 0x060
  | .regionBase => 0x068
  | .regionSize => 0x070
  | .blockSize => 0x078
  | .tagLo => 0x080
  | .tagHi => 0x088
  | .totalBlocks => 0x090
  | .attr => 0x098

/-- The register at an offset; none at an unlisted or misaligned one (R131). -/
def regAt : Nat → Option Reg
  | 0x000 => some .cmd
  | 0x008 => some .arg0
  | 0x010 => some .arg1
  | 0x018 => some .arg2
  | 0x020 => some .arg3
  | 0x028 => some .status
  | 0x030 => some .result0
  | 0x038 => some .result1
  | 0x040 => some .retryCount
  | 0x048 => some .opcount
  | 0x050 => some .cmdset
  | 0x058 => some .ctrlBase
  | 0x060 => some .devBase
  | 0x068 => some .regionBase
  | 0x070 => some .regionSize
  | 0x078 => some .blockSize
  | 0x080 => some .tagLo
  | 0x088 => some .tagHi
  | 0x090 => some .totalBlocks
  | 0x098 => some .attr
  | _ => none

/-- The register a host access of `width` bytes at `offset` reaches: 8 bytes wide, at a listed offset; none is a wrong
access (R132). -/
def accessedReg (offset width : Nat) : Option Reg := if width = 8 then regAt offset else none

/-- The `n`th argument register's offset (R131). -/
def argOffset (n : Nat) : Nat := 0x008 + 8 * n

/-- The host register writes of a program line, as (offset, value): the operands in order from ARG0, then CMD (R162). -/
def encodeLine (l : Line) : List (Nat × Word) :=
  (l.operands.zipIdx.map fun (v, n) => (argOffset n, wordOf v)) ++ [(regOffset .cmd, encode l.instr)]

end Sys2Proof
end

