-- ==== Sys2Proof/Machine/State.lean ====
section
/-! DEFINITION. The state of the block and of its environment (10_state.md, 20_memory.md §6), as plain data, the ways a
step can stop, and the state after reset (R58). -/

namespace Sys2Proof.Machine

/-! ### Fields of STATUS -/

/-- `STATUS.LSTATE`, the lifecycle state (R35). -/
inductive LState where
  | uninit
  | ready
  | relocated
deriving DecidableEq, Repr

/-- Status codes, held in `STATUS.RESULT_CODE` (R145). -/
inductive Status where
  | success
  | invalidParameter
  | deviceError
  | outOfResources
  | configMissing
  | unrecoverable
deriving DecidableEq, Repr

/-- Fault reasons, held in `STATUS.FAULT_REASON` (R146); `noFault` is code 0. -/
inductive FaultReason where
  | noFault
  | hostAccess
  | busy
  | illegalOp
  | notReady
  | reinit
  | relocate
  | overflow
  | window
  | hostMem
deriving DecidableEq, Repr

/-! ### Bus events -/

/-- The seven kinds of bus event (R150). -/
inductive EventKind where
  | cfgCmd
  | cfgLoad
  | cfgWcfg
  | cfgFlush
  | cfgAddr
  | data
  | poll
deriving DecidableEq, Repr

/-- The bus's answer: OK or ERROR to a configure event, OK to a data store, a pair to a poll (R150). -/
inductive Answer where
  | ok
  | error
  | polled (busy ok : Bool)
deriving DecidableEq, Repr

/-- A record of the bus event history (R155); a field the event does not have is `none`. -/
structure BusEvent where
  /-- Counts events from 0 after reset. -/
  n : Nat
  kind : EventKind
  registerOrOpcode : Option Word
  value : Option Word
  /-- The port address, or the window address of a data store; none for a poll. -/
  target : Option Nat
  answer : Answer
deriving DecidableEq, Repr

/-! ### The flash chip -/

/-- The condition of a byte of the flash array (R96). -/
inductive Cond where
  | erased
  | programmed (v : Byte)
  | undefined
deriving DecidableEq, Repr

/-- The byte conditions of the array as runs: `(x, c)` says that from array byte `x` on, up to the next entry, the
condition is `c`; below the first entry it is ERASED. Canonical when the bytes rise and neighbouring conditions differ
(`canonicalFlash`), so equal arrays are equal lists (assumption log 8). -/
abbrev Flash := List (Nat × Cond)

/-- The flash chip's reference model (R96). -/
structure Chip where
  /-- The conditions, by array byte: window byte `a` is array byte `a - DEV_BASE` (R82). -/
  flash : Flash
  /-- The chip-undefined flag (R100). -/
  undef : Bool
  /-- PENDING: the erase units being erased in ASYNC mode, rising (R104). -/
  pending : List Nat
  /-- LAST_OK: the last completed erase succeeded (R104). -/
  lastOk : Bool
  /-- The data stores `(addr, w)` of the page program under way, oldest first: what FLUSH commits (R97; assumption
  log 14). -/
  page : List (Nat × BitVec 32)
deriving DecidableEq, Repr

/-! ### The sequencer -/

/-- The micro-step a running command performs next (R21, R47): the position `k` of `ACTIVE(op, k)`, by name. -/
inductive Pos where
  /-- `WinRead` of the copy loop (R204). -/
  | winRead
  /-- `MemWrite` of the copy loop (R204). -/
  | memWrite
  /-- PP_SEQ step (1): CFG_CMD (R210). -/
  | ppCmd
  /-- PP_SEQ step (2): CFG_LOAD. -/
  | ppLoad
  /-- PP_SEQ step (3): CFG_WCFG, write enable. -/
  | ppWe
  /-- PP_SEQ step (4): `MemRead` of a data word. -/
  | ppFetch
  /-- PP_SEQ step (4): DATA. -/
  | ppData
  /-- PP_SEQ step (5): CFG_FLUSH. -/
  | ppFlush
  /-- PP_SEQ step (6): CFG_WCFG, write enable cleared. -/
  | ppClear
  /-- ESB_SEQ: CFG_CMD (R222). -/
  | esCmd
  /-- ESB_SEQ: the first CFG_LOAD. -/
  | esLoad
  /-- ESB_SEQ: CFG_ADDR. -/
  | esAddr
  /-- ESB_SEQ: the second CFG_LOAD. -/
  | esLatch
  /-- POLL (R263). -/
  | poll
  /-- `MemRead` of an LBA word of an erase-block list (R288). -/
  | listLba
  /-- `MemRead` of a count word (R288). -/
  | listNum
  /-- `MemWrite` of a descriptor field (R230). -/
  | record
deriving DecidableEq, Repr

/-- The session state of a running command (R48, R49). -/
structure Session where
  /-- The operand snapshot. -/
  a0 : Word
  a1 : Word
  a2 : Word
  a3 : Word
  /-- The target address cursor: the window byte, chunk or erase unit the command is at. -/
  addr : Nat
  /-- The host buffer cursor: the buffer byte, chunk, record or list word the command is at. -/
  buf : Nat
  /-- The remaining count: bytes of a copy or a write, erase units of an erase. -/
  rem : Nat
  /-- The inner loop index: data word of a chunk, field of a record, poll of an attempt. -/
  idx : Nat
  /-- The attempt `k` of ERASE_BLOCK_RETRY. -/
  attempt : Nat
  /-- The value in flight between two micro-steps: a byte read, a data word, an LBA. -/
  datum : Word
  /-- FIRST_ERR of ERASE_BLOCKS; SUCCESS while there is none (R49). -/
  firstErr : Status
deriving DecidableEq, Repr

/-- SEQ, with the session state that exists only while it is not IDLE (R47, R48). -/
inductive Seq where
  | idle
  | active (op : Instr) (k : Pos) (ses : Session)
deriving DecidableEq, Repr

/-! ### Moves of the environment -/

/-- Host memory (R80, R84): the listed bytes, addresses rising, none equal to what an unlisted address reads as. -/
abbrev Memory := List Host.Cell

/-- One move of an agent (R9, R21): what happens next, and the free inputs it brings (assumption log 3). -/
inductive Input where
  /-- A host register write of `width` bytes at a bus address (R132). -/
  | hostWrite (addr width : Nat) (value : Word)
  /-- A host register read (R132). -/
  | hostRead (addr width : Nat)
  /-- The host reads STATUS until BUSY = 0 (R162); the sequencer moves meanwhile, on the draws `ds` while they last. -/
  | awaitIdle (ds : List Draw)
  /-- A direct host read of a window byte (R94, R404). -/
  | hostWindowRead (addr : Nat) (d : Draw)
  /-- The host stores a byte into host memory (R397). -/
  | hostStore (addr : Nat) (b : Byte)
  /-- The sequencer performs its next micro-step (R21). -/
  | sequencer (d : Draw)
  /-- The chip step COMPLETE(`unit`, outcome) (R104). -/
  | complete (unit : Nat) (success : Bool)
  /-- Block reset (R390, R392). -/
  | blockReset
  /-- Power cycle (R394); `mem` is what host memory holds afterwards, which the spec leaves open (assumption log 16). -/
  | powerCycle (mem : List Host.Cell)
  /-- The platform mends, or breaks, a cause of a failed INIT (R395; assumption logs 22, 27). -/
  | platformChange (present capabilityPresent resourcesOk : Bool)
deriving DecidableEq, Repr

/-! ### The state -/

/-- The whole machine: the block's registers (R30), its sequencer (R47), and its environment (R60, R61). -/
structure State where
  /-- The platform's parameters (R13, R56); not state in the spec (assumption log 2). -/
  platform : Platform
  /-- The moves to come, next first; the model's own (assumption log 3). -/
  inputs : List Input
  /-- How many free values were drawn; the model's own (assumption log 4). -/
  draws : Nat
  /-- CMD (R31). -/
  cmd : Word
  /-- ARG0 (R32). -/
  arg0 : Word
  /-- ARG1 (R32). -/
  arg1 : Word
  /-- ARG2 (R32). -/
  arg2 : Word
  /-- ARG3 (R32). -/
  arg3 : Word
  /-- STATUS.BUSY (R34). -/
  busy : Bool
  /-- STATUS.LSTATE (R35). -/
  lstate : LState
  /-- STATUS.HALTED (R36). -/
  halted : Bool
  /-- STATUS.FAULT (R37). -/
  fault : Bool
  /-- STATUS.RESULT_CODE (R38). -/
  resultCode : Status
  /-- STATUS.FAULT_REASON (R39). -/
  faultReason : FaultReason
  /-- RESULT0 (R40). -/
  result0 : Word
  /-- RESULT1 (R40). -/
  result1 : Word
  /-- RETRY_COUNT (R41). -/
  retryCount : Word
  /-- OPCOUNT (R42). -/
  opcount : Word
  /-- CMDSET (R43). -/
  cmdset : Word
  /-- CTRL_BASE (R45). -/
  ctrlBase : Word
  /-- DEV_BASE (R52). -/
  devBase : Word
  /-- REGION_BASE (R52). -/
  regionBase : Word
  /-- REGION_SIZE (R52). -/
  regionSize : Word
  /-- BLOCK_SIZE (R52). -/
  blockSize : Word
  /-- TAG_LO (R52). -/
  tagLo : Word
  /-- TAG_HI (R52). -/
  tagHi : Word
  /-- TOTAL_BLOCKS (R51). -/
  totalBlocks : Word
  /-- ATTR (R46). -/
  attr : BitVec 32
  /-- SEQ and the session state (R47, R48). -/
  seq : Seq
  /-- The flash chip (R96). -/
  chip : Chip
  /-- Host memory (R84). -/
  mem : Memory
  /-- The bus event history, oldest first (R61). -/
  history : List BusEvent
  /-- What the last host read returned; the model's own (assumption log 15). -/
  readData : Word
deriving DecidableEq, Repr

/-- Why a step stops the model. The block's own faults (R360) are no stops: they are next states. -/
inductive Fault where
  /-- Raised by a host register access below `BLOCK_BASE` or at `2^W` and above, a window read outside the window or at
  `2^W` and above, a host store beyond the address space: the address does not exist or is not this block's. Safe: the model
  stops where the block is not concerned (assumption log 25). -/
  | noSuchAddress (addr : Nat)
deriving DecidableEq, Repr

/-- Why the model gives no meaning. -/
inductive Refusal where
  /-- Raised by exec's arm of a command without a meaning yet; no arm has it. Safe. -/
  | notModelled (mnemonic : String)
  /-- Raised by every step and command on a platform that breaks R57: "a model refuses it" (I19). Safe. -/
  | illFormedPlatform
deriving DecidableEq, Repr

/-- The chip at the start of a run (R96): FLASH_INIT is a launch parameter, here that of configuration EX, every byte of
the window PROGRAMMED(0x00) (DESIGN CHOICE, assumption log 8); the flags as R96 gives them. -/
def Chip.initial : Chip where
  flash := [(0, .programmed 0), (0x2000000, .erased)]
  undef := false
  pending := []
  lastOk := true
  page := []

/-- The machine right after reset (R58, R390, R393): every register at the value of R58, SEQ idle, the history empty.
The platform is configuration EX (log 2), the environment's script is empty, no free value is drawn yet. -/
def State.reset : State where
  platform := Platform.ex
  inputs := []
  draws := 0
  cmd := 0
  arg0 := 0
  arg1 := 0
  arg2 := 0
  arg3 := 0
  busy := false
  lstate := .uninit
  halted := false
  fault := false
  resultCode := .success
  faultReason := .noFault
  result0 := 0
  result1 := 0
  retryCount := 0
  opcount := 0
  cmdset := 0
  ctrlBase := 0
  devBase := 0
  regionBase := 0
  regionSize := 0
  blockSize := 0
  tagLo := 0
  tagHi := 0
  totalBlocks := 0
  attr := 0
  seq := .idle
  chip := Chip.initial
  mem := []
  history := []
  readData := 0

end Sys2Proof.Machine
end

