-- ==== Sys2Proof/Machine/Chip.lean ====
section
/-! DEFINITION. The flash chip's reference model (20_memory.md R90, R96 to R109): byte conditions, commits, erase
completion, window reads and polls. -/

namespace Sys2Proof.Machine

/-! ### Byte conditions as runs -/

/-- The condition at `x`, where `cur` holds below the first run. -/
def condFrom : Cond → Flash → Nat → Cond
  | cur, [], _ => cur
  | cur, (a, c) :: r, x => if x < a then cur else condFrom c r x

/-- The condition of array byte `x`; below the first run every byte is ERASED. -/
def condAt (f : Flash) (x : Nat) : Cond := condFrom .erased f x

/-- Drop the runs that change nothing, where `cur` holds before the first. -/
def mergeRuns : Cond → Flash → Flash
  | _, [] => []
  | cur, (a, c) :: r => if c = cur then mergeRuns cur r else (a, c) :: mergeRuns c r

/-- Give the array bytes `[lo, hi)` the condition `c`. -/
def setRange (f : Flash) (lo hi : Nat) (c : Cond) : Flash :=
  if lo < hi then
    mergeRuns .erased (f.takeWhile (fun e => e.1 < lo) ++ (lo, c) :: (hi, condAt f hi) :: f.dropWhile (fun e => e.1 ≤ hi))
  else f

/-- The runs rise from `lo` on and each differs from the condition before it. -/
def runsFrom : Cond → Nat → Flash → Bool
  | _, _, [] => true
  | cur, lo, (a, c) :: r => decide (lo ≤ a) && decide (c ≠ cur) && runsFrom c (a + 1) r

/-- The canonical form of the array. -/
def canonicalFlash (f : Flash) : Bool := runsFrom .erased 0 f

/-! ### Page programs -/

/-- What programming `b` makes of a byte: ERASED becomes PROGRAMMED(`b`), any other UNDEFINED (R97, R98); on an undefined
chip every byte becomes UNDEFINED (R101). -/
def programmedCond (undef : Bool) (b : Byte) : Cond → Cond
  | .erased => if undef then .undefined else .programmed b
  | .programmed _ => .undefined
  | .undefined => .undefined

/-- Program one array byte. -/
def programByte (undef : Bool) (f : Flash) (x : Nat) (b : Byte) : Flash :=
  setRange f x (x + 1) (programmedCond undef b (condAt f x))

/-- Byte `j` of a data word: `w[8j+7:8j]` (R87). -/
def wordByte (w : BitVec 32) (j : Nat) : Byte := BitVec.ofNat 8 (w.toNat / 256 ^ j)

/-- Program the four bytes of a data store at array byte `x` (R97). -/
def programWord (undef : Bool) (f : Flash) (x : Nat) (w : BitVec 32) : Flash :=
  [0, 1, 2, 3].foldl (fun g j => programByte undef g (x + j) (wordByte w j)) f

/-- The commit of a page program when its FLUSH is answered OK: every data store of the sequence, in order (R97). `base`
is the window's base. -/
def commitPage (base : Nat) (c : Chip) : Chip :=
  { c with flash := c.page.foldl (fun f e => programWord c.undef f (e.1 - base) e.2) c.flash, page := [] }

/-! ### Erases -/

/-- Add a unit to PENDING, a set kept rising. -/
def insertUnit (k : Nat) : List Nat → List Nat
  | [] => [k]
  | u :: r => if k < u then k :: u :: r else if k = u then u :: r else u :: insertUnit k r

/-- Every byte of erase unit `k` gets the condition `c` (R99). -/
def setUnit (p : Platform) (k : Nat) (c : Cond) (f : Flash) : Flash :=
  setRange f (k * p.cfg.blockSize.toNat) ((k + 1) * p.cfg.blockSize.toNat) c

/-- The erase unit that contains window address `b` (R99). -/
def unitOf (p : Platform) (b : Nat) : Nat := (b - p.cfg.devBase.toNat) / p.cfg.blockSize.toNat

/-- The commit of a single-block erase when its last LOAD is answered OK (R99): in IMMEDIATE mode the unit becomes ERASED
(R103), in ASYNC mode it joins PENDING (R104). On an undefined chip the unit's bytes become UNDEFINED (R101; assumption
log 13). -/
def commitErase (p : Platform) (b : Nat) (c : Chip) : Chip :=
  match p.eraseCompletion with
  | .immediate => { c with flash := setUnit p (unitOf p b) (if c.undef then .undefined else .erased) c.flash }
  | .async =>
    { c with
      pending := insertUnit (unitOf p b) c.pending
      flash := if c.undef then setUnit p (unitOf p b) .undefined c.flash else c.flash }

/-- The chip step COMPLETE(`k`, outcome) for a pending unit (R104); not enabled for any other unit. -/
def completeErase (p : Platform) (k : Nat) (success : Bool) (c : Chip) : Chip :=
  if k ∈ c.pending then
    { c with
      pending := c.pending.filter (· ≠ k)
      lastOk := success
      flash := setUnit p k (if success && !c.undef then .erased else .undefined) c.flash }
  else c

/-- The first event of a sequence: with an erase pending in ASYNC mode it makes the chip undefined (R106); the page buffer
starts empty. -/
def beginSequence (p : Platform) (c : Chip) : Chip :=
  { c with undef := c.undef || (p.eraseCompletion == .async && !c.pending.isEmpty), page := [] }

/-- The chip's part of a power cycle (R109, R394). -/
def powerCycleChip (p : Platform) (c : Chip) : Chip where
  flash :=
    if c.undef then setRange c.flash 0 p.flashSize .undefined
    else c.pending.foldl (fun f k => setUnit p k .undefined f) c.flash
  undef := false
  pending := []
  lastOk := true
  page := []

/-! ### Reads -/

/-- `WinRead` of array byte `x`, with the draw `b` (R90). -/
def windowByte (p : Platform) (c : Chip) (x : Nat) (b : Byte) : Byte :=
  if c.undef then b
  else if p.eraseCompletion = .async ∧ c.pending ≠ [] then b
  else
    match condAt c.flash x with
    | .erased => erasedByte
    | .programmed v => v
    | .undefined => b

/-- The answer `(busy, ok)` of a POLL, with the draws of `d` (R107). -/
def pollAnswer (p : Platform) (c : Chip) (d : Draw) : Bool × Bool :=
  if c.undef then (d.pollBusy, d.pollOk)
  else
    match p.eraseCompletion with
    | .immediate => (false, true)
    | .async => (!c.pending.isEmpty, c.lastOk)

end Sys2Proof.Machine
end

