-- ==== Sys2Proof/Machine/Flags.lean ====
section
/-! DEFINITION. The STATUS word (10_state.md R33, 30_encoding.md R145 to R148), the fields of CMDSET (R43), and what a
host read of each register gives (R30, R132). -/

namespace Sys2Proof.Machine

/-- LSTATE as a number (R148). -/
def lstateCode : LState → Nat
  | .uninit => 0
  | .ready => 1
  | .relocated => 2

/-- The number of a status code (R145). -/
def statusCode : Status → Nat
  | .success => 0x00
  | .invalidParameter => 0x01
  | .deviceError => 0x02
  | .outOfResources => 0x03
  | .configMissing => 0x04
  | .unrecoverable => 0x05

/-- The number of a fault reason (R146). -/
def faultCode : FaultReason → Nat
  | .noFault => 0x00
  | .hostAccess => 0x01
  | .busy => 0x02
  | .illegalOp => 0x03
  | .notReady => 0x04
  | .reinit => 0x05
  | .relocate => 0x06
  | .overflow => 0x07
  | .window => 0x08
  | .hostMem => 0x09

/-- The STATUS word (R147). -/
def statusWord (s : State) : Word :=
  wordOf (s.busy.toNat + 2 * lstateCode s.lstate + 8 * s.halted.toNat + 16 * s.fault.toNat +
    256 * statusCode s.resultCode + 65536 * faultCode s.faultReason)

/-- CMDSET from the three chip opcodes (R43, R203). -/
def cmdsetOf (pp er wr : Byte) : Word := (pp ++ er ++ wr : BitVec 24).setWidth 64

/-- CMDSET.WRITE_OP, bits 7:0 (R43). -/
def writeOpOf (v : Word) : Byte := v.extractLsb' 0 8

/-- CMDSET.ERASE_OP, bits 15:8 (R43). -/
def eraseOpOf (v : Word) : Byte := v.extractLsb' 8 8

/-- CMDSET.PP_OP, bits 23:16 (R43). -/
def ppOpOf (v : Word) : Byte := v.extractLsb' 16 8

/-- What a host read of a register gives, zero-extended to 64 bits (R30, R132). -/
def readReg (s : State) : Reg → Word
  | .cmd => s.cmd
  | .arg0 => s.arg0
  | .arg1 => s.arg1
  | .arg2 => s.arg2
  | .arg3 => s.arg3
  | .status => statusWord s
  | .result0 => s.result0
  | .result1 => s.result1
  | .retryCount => s.retryCount
  | .opcount => s.opcount
  | .cmdset => s.cmdset
  | .ctrlBase => s.ctrlBase
  | .devBase => s.devBase
  | .regionBase => s.regionBase
  | .regionSize => s.regionSize
  | .blockSize => s.blockSize
  | .tagLo => s.tagLo
  | .tagHi => s.tagHi
  | .totalBlocks => s.totalBlocks
  | .attr => s.attr.setWidth 64

end Sys2Proof.Machine
end

