-- ==== Sys2Proof/Machine/Memory.lean ====
section
/-! DEFINITION. Host memory: `MemRead` and `MemWrite` (20_memory.md R84, R87, R92), little-endian over canonical cells. -/

namespace Sys2Proof.Machine

/-- What a byte of host memory that is not listed reads as. The spec gives no contents; DESIGN CHOICE (assumption
log 7). -/
def unlistedByte : Byte := 0

/-- One byte of host memory. -/
def readByte : Memory → Nat → Byte
  | [], _ => unlistedByte
  | (c, v) :: r, a => if a = c then v else if a < c then unlistedByte else readByte r a

/-- Store one byte, keeping the canonical form. -/
def writeByte : Memory → Nat → Byte → Memory
  | [], a, b => if b = unlistedByte then [] else [(a, b)]
  | (c, v) :: r, a, b =>
    if a < c then if b = unlistedByte then (c, v) :: r else (a, b) :: (c, v) :: r
    else if a = c then if b = unlistedByte then r else (a, b) :: r
    else (c, v) :: writeByte r a b

/-- `MemRead(a, n)`: the little-endian value of `n` bytes (R84). -/
def readBytes (m : Memory) (a : Nat) : Nat → Nat
  | 0 => 0
  | n + 1 => (readByte m a).toNat + 256 * readBytes m (a + 1) n

/-- `MemWrite(a, n, v)`: store the `n` low bytes of `v`, little-endian (R84). -/
def writeBytes (m : Memory) (a : Nat) : Nat → Nat → Memory
  | 0, _ => m
  | n + 1, v => writeBytes (writeByte m a (BitVec.ofNat 8 v)) (a + 1) n (v / 256)

/-- The cells rise from `lo` on and none holds the unlisted value. -/
def canonicalFrom : Nat → Memory → Bool
  | _, [] => true
  | lo, (a, v) :: r => decide (lo ≤ a) && decide (v ≠ unlistedByte) && canonicalFrom (a + 1) r

/-- The canonical form of host memory. -/
def Memory.wf (m : Memory) : Bool := canonicalFrom 0 m

/-- Every listed byte has an address below `limit`, which is `2^W` (R10, R80). -/
def Memory.below (m : Memory) (limit : Nat) : Bool := m.all fun c => decide (c.1 < limit)

/-- Cells in any order as canonical memory; a later cell wins, and a cell at `limit`, which is `2^W`, or above is no byte of
host memory (R80). -/
def memoryOf (limit : Nat) (cells : List Host.Cell) : Memory :=
  (cells.filter fun c => decide (c.1 < limit)).foldl (fun m c => writeByte m c.1 c.2) []

end Sys2Proof.Machine
end

