-- ==== Sys2Proof/Machine/Operands.lean ====
section
/-! DEFINITION. Operands: the snapshot of the ARG registers (10_state.md R48, 30_encoding.md R142), the address
translation (42_facade.md R281), and the range checks in their order (60_exceptions.md R353). -/

namespace Sys2Proof.Machine

/-- The operand snapshot taken at acceptance, with the rest of the session not yet in use (R48). -/
def snapshot (s : State) : Session where
  a0 := s.arg0
  a1 := s.arg1
  a2 := s.arg2
  a3 := s.arg3
  addr := 0
  buf := 0
  rem := 0
  idx := 0
  attempt := 0
  datum := 0
  firstErr := .success

/-- `phys(l, o)`, the window address of offset `o` in block `l` (R281). -/
def phys (s : State) (l o : Nat) : Nat := s.regionBase.toNat + l * s.blockSize.toNat + o

/-- `[a, a+n)` is inside the window (R82, R91). -/
abbrev inWindow (s : State) (a n : Nat) : Prop := inside a n s.devBase.toNat s.platform.flashSize

/-- The overflow and host-memory checks of a host buffer, skipped for length 0 (R353, R17, R85). -/
def bufferFault (s : State) (buf len : Nat) : Option FaultReason :=
  if len = 0 then none
  else if s.platform.limit < buf + len then some .overflow
  else if ¬ s.platform.hostOk buf len then some .hostMem
  else none

/-- The overflow, window and host-memory checks of a transfer between the window and a host buffer, in that order and
skipped for length 0 (R353). -/
def transferFault (s : State) (addr buf len : Nat) : Option FaultReason :=
  if len = 0 then none
  else if s.platform.limit < addr + len ∨ s.platform.limit < buf + len then some .overflow
  else if ¬ inWindow s addr len then some .window
  else if ¬ s.platform.hostOk buf len then some .hostMem
  else none

/-- The overflow and window checks of ERASE over `n` units of `unit` bytes from `off`, skipped for 0 units (R225). -/
def eraseFault (s : State) (off len n unit : Nat) : Option FaultReason :=
  if n = 0 then none
  else if s.platform.limit < off + len then some .overflow
  else if ¬ inWindow s off ((n - 1) * unit + 1) then some .window
  else none

/-- The check of one erase address (R91, R223). -/
def eraseAddressFault (s : State) (b : Nat) : Option FaultReason :=
  if ¬ inWindow s b 1 then some .window else none

/-- The bytes of the next chunk: `min(PAGE_BYTES, remaining)` (R214). -/
def chunkBytes (ses : Session) : Nat := min pageBytes ses.rem

/-- `LBA_LIST_TERMINATOR = 2^W - 1` (R161). -/
def listTerminator (p : Platform) : Nat := p.limit - 1

/-- Field `i` of the descriptor record (R159). -/
def descriptorField (s : State) : Nat → Word
  | 0 => s.devBase
  | 1 => s.regionBase
  | 2 => s.regionSize
  | 3 => s.blockSize
  | 4 => s.tagLo
  | _ => s.tagHi

/-- The number of fields of the descriptor record, and the bytes of one (R159). -/
def recordFields : Nat := 6

/-- The bytes of one field of the descriptor record (R159). -/
def fieldBytes : Nat := 8

end Sys2Proof.Machine
end

