-- ==== Sys2Proof/Machine/Ops.lean ====
section
/-! DEFINITION. The shared operations: the three ends of a command (60_exceptions.md R354, R357, R360), acceptance (R351),
bus events (30_encoding.md R150 to R155), reset (70_reset_and_hazards.md R390 to R394). -/

namespace Sys2Proof.Machine

/-- What a step answers. -/
abbrev Result := Host.Outcome State Fault Refusal

/-! ### The ends of a command -/

/-- Set the sequencer position and the session; the command goes on (R47). -/
def goto (op : Instr) (k : Pos) (ses : Session) (s : State) : State := { s with seq := .active op k ses }

/-- `finish(c)` of a command that writes no result register (R354). -/
def finish (c : Status) (s : State) : State := { s with resultCode := c, busy := false, seq := .idle }

/-- RESULT0 written, then `finish(SUCCESS)` (R354, R355). -/
def finishResult (r0 : Word) (s : State) : State := finish .success { s with result0 := r0 }

/-- RESULT0 and RESULT1 written, then `finish(SUCCESS)` (R354, R355). -/
def finishResults (r0 r1 : Word) (s : State) : State := finish .success { s with result0 := r0, result1 := r1 }

/-- `fatal()`: the block halts as unrecoverable (R357). -/
def fatal (s : State) : State :=
  { s with halted := true, resultCode := .unrecoverable, busy := false, seq := .idle }

/-- `raise Fault(r)`: taking the block's one kind of exception (R360). There is no handler and no return; only reset
leaves the state (R364). -/
def raise (r : FaultReason) (s : State) : State :=
  { s with fault := true, faultReason := r, busy := false, seq := .idle }

/-- Raise the fault a check found, or go on. -/
def raiseOr (f : Option FaultReason) (go : State → State) (s : State) : State :=
  match f with
  | some r => raise r s
  | none => go s

/-- The next micro-step lies inside a sequence: its first event is emitted and its last is not (R100). -/
def midSequence : Seq → Bool
  | .idle => false
  | .active _ .winRead _ => false
  | .active _ .memWrite _ => false
  | .active _ .ppCmd _ => false
  | .active _ .ppLoad _ => true
  | .active _ .ppWe _ => true
  | .active _ .ppFetch _ => true
  | .active _ .ppData _ => true
  | .active _ .ppFlush _ => true
  | .active _ .ppClear _ => true
  | .active _ .esCmd _ => false
  | .active _ .esLoad _ => true
  | .active _ .esAddr _ => true
  | .active _ .esLatch _ => true
  | .active _ .poll _ => false
  | .active _ .listLba _ => false
  | .active _ .listNum _ => false
  | .active _ .record _ => false

/-- A running command is cut off from outside: a sequence under way is abandoned and makes the chip undefined (R100). -/
def abandon (s : State) : State :=
  { s with chip := { s.chip with undef := s.chip.undef || midSequence s.seq } }

/-- A fault raised by a host access: a running command stops at once (R360). -/
def hostFault (r : FaultReason) (s : State) : State := raise r (abandon s)

/-! ### Acceptance -/

/-- The fault that the lifecycle state gives a command (R351, R369). -/
def lifecycleFault (i : Instr) (l : LState) : Option FaultReason :=
  if i ≠ .init ∧ l = .uninit then some .notReady
  else if i = .init ∧ l ≠ .uninit then some .reinit
  else if i = .relocate ∧ l ≠ .ready then some .relocate
  else none

/-- The handling of a write of command `i` to CMD, in the order of R351. `start` is the command's pseudocode up to its
first micro-step, given the operand snapshot. -/
def accept (i : Instr) (start : Session → State → State) (s : State) : State :=
  if s.fault then s
  else if s.busy then hostFault .busy s
  else if s.halted then { s with cmd := encode i, opcount := 0, resultCode := .unrecoverable }
  else raiseOr (lifecycleFault i s.lstate)
    (fun t => start (snapshot t) { t with busy := true, opcount := 0 }) { s with cmd := encode i }

/-- A command on a well-formed platform; any other is refused (R57, I19). -/
def command (i : Instr) (start : Session → State → State) (s : State) : Result :=
  if s.platform.WF then .next (accept i start s) else .refused .illFormedPlatform

/-! ### Bus events -/

/-- Append a record to the bus event history (R155). -/
def emit (kind : EventKind) (reg value : Option Word) (target : Option Nat) (answer : Answer) (s : State) : State :=
  { s with history := s.history ++ [⟨s.history.length, kind, reg, value, target, answer⟩] }

/-- The address of a controller port; CTRL_BASE is read when the event is emitted (R86, R151). -/
def portAddr (s : State) (p : Port) : Nat := s.ctrlBase.toNat + (s.platform.ports.at p).toNat

/-- A configure event answered `ok`; an ERROR makes the chip undefined (R100, R150, R151, R158). -/
def configure (kind : EventKind) (reg value : Word) (p : Port) (ok : Bool) (s : State) : State :=
  emit kind (some reg) (some value) (some (portAddr s p)) (if ok then .ok else .error)
    { s with chip := { s.chip with undef := s.chip.undef || !ok } }

/-- The first event of a sequence begins: OPCOUNT, a `W`-bit register, counts it (R42; assumption logs 9, 24) and the chip
sees it (R106). -/
def beginEvent (s : State) : State :=
  { s with opcount := s.platform.width.trunc (s.opcount + 1), chip := beginSequence s.platform s.chip }

/-- `CFG_CMD(PP_OP, CTRL_FIXED)`, the first event of both sequences (R210, R222, R156). -/
def emitCmd (d : Draw) (s : State) : State :=
  configure .cfgCmd ((ppOpOf s.cmdset).setWidth 64) s.platform.ctrlFixed .command d.ok (beginEvent s)

/-- `CFG_LOAD(PP_OP, LOAD_VALUE)` (R210, R222, R156). -/
def emitLoad (d : Draw) (s : State) : State :=
  configure .cfgLoad ((ppOpOf s.cmdset).setWidth 64) s.platform.loadValue .load d.ok s

/-- `CFG_WCFG(v)` (R150, R210). -/
def emitWcfg (v : Word) (d : Draw) (s : State) : State :=
  configure .cfgWcfg s.platform.regWcfg v .writeConfig d.ok s

/-- `DATA(addr, w)`: the chip's page buffer takes the word; the answer is always OK (R153, R97). -/
def emitData (addr : Nat) (w : BitVec 32) (s : State) : State :=
  emit .data none (some (w.setWidth 64)) (some addr) .ok
    { s with chip := { s.chip with page := s.chip.page ++ [(addr, w)] } }

/-- `CFG_FLUSH(FLUSH_VALUE)`; answered OK it commits the page (R97, R210). -/
def emitFlush (d : Draw) (s : State) : State :=
  let t := configure .cfgFlush s.platform.regFlush s.platform.flushValue .flush d.ok s
  if d.ok then { t with chip := commitPage s.devBase.toNat t.chip } else t

/-- `CFG_ADDR(ERASE_OP, b)` (R222, R156). -/
def emitAddr (b : Nat) (d : Draw) (s : State) : State :=
  configure .cfgAddr ((eraseOpOf s.cmdset).setWidth 64) (wordOf b) .address d.ok s

/-- `CFG_LOAD(ERASE_OP, LOAD_VALUE)`; answered OK it commits the erase of `b` (R99, R222, R156). -/
def emitLatch (b : Nat) (d : Draw) (s : State) : State :=
  let t := configure .cfgLoad ((eraseOpOf s.cmdset).setWidth 64) s.platform.loadValue .load d.ok s
  if d.ok then { t with chip := commitErase s.platform b t.chip } else t

/-- `POLL` with its answer (R107, R154). -/
def emitPoll (busy ok : Bool) (s : State) : State := emit .poll none none none (.polled busy ok) s

/-! ### Memory micro-steps -/

/-- `WinRead(a)` for the block, with the draw `b` (R90, R82). -/
def winRead (s : State) (a : Nat) (b : Byte) : Byte := windowByte s.platform s.chip (a - s.devBase.toNat) b

/-- `MemRead(a, n)` (R84). -/
def memRead (s : State) (a n : Nat) : Nat := readBytes s.mem a n

/-- `MemWrite(a, n, v)` (R84). -/
def memWrite (a n v : Nat) (s : State) : State := { s with mem := writeBytes s.mem a n v }

/-! ### Chip steps, reset and power -/

/-- The chip step COMPLETE (R104). -/
def chipComplete (k : Nat) (success : Bool) (s : State) : State :=
  { s with chip := completeErase s.platform k success s.chip }

/-- Every register at its reset value, SEQ idle, the history empty (R58, R390, R393); memory, the chip and the model's own
fields are kept. -/
def resetRegisters (s : State) : State :=
  { State.reset with
    platform := s.platform
    inputs := s.inputs
    draws := s.draws
    chip := s.chip
    mem := s.mem
    readData := s.readData }

/-- Block reset: a sequence under way is abandoned (R390, R392). -/
def blockReset (s : State) : State := resetRegisters (abandon s)

/-- Power cycle: a block reset and a chip power cycle; `mem` is host memory afterwards (R394; assumption logs 16, 18). -/
def powerCycle (mem : List Host.Cell) (s : State) : State :=
  let t := blockReset s
  { t with chip := powerCycleChip s.platform t.chip, mem := memoryOf s.platform.limit mem }

end Sys2Proof.Machine
end

