-- ==== Sys2Proof/Machine/Engine.lean ====
section
/-! DEFINITION. The command sequencer's commands (40_engine.md): each meaning is the step of the CMD write, acceptance and
pseudocode up to the first micro-step (60_exceptions.md R351); `cont…` is what a command does after a micro-step or a
sequence, up to its next micro-step or its end. -/

namespace Sys2Proof.Machine

/-! ### INIT (R201 to R203) -/

/-- The register writes of a successful INIT (R203). -/
def loadConfiguration (s : State) : State :=
  let c := s.platform.cfg
  { s with
    cmdset := cmdsetOf c.ppOp c.eraseOp c.writeOp
    ctrlBase := c.ctrlBase
    devBase := c.devBase
    regionBase := c.regionBase
    regionSize := c.regionSize
    blockSize := c.blockSize
    tagLo := c.tag.extractLsb' 0 64
    tagHi := c.tag.extractLsb' 64 64
    totalBlocks := wordOf (c.regionSize.toNat / c.blockSize.toNat)
    attr := s.platform.attrInit
    lstate := .ready }

/-- INIT's pseudocode (R202, R203). -/
def startInit (_ : Session) (s : State) : State :=
  if ¬ s.platform.cfg.present then finish .configMissing s
  else if ¬ s.platform.cfg.capabilityPresent then finish .deviceError s
  else if ¬ s.platform.cfg.resourcesOk then finish .outOfResources s
  else finish .success (loadConfiguration s)

/-- INIT (R201). -/
def execInit (s : State) : Result := command .init startInit s

/-! ### The copy loop of READ and FVB_READ (R204, R285) -/

/-- The next byte of a copy, or the end of the command. -/
def nextByte (op : Instr) (ses : Session) (s : State) : State :=
  if ses.rem = 0 then finish .success s else goto op .winRead ses s

/-- The session after one byte was copied. -/
def advanceByte (ses : Session) : Session :=
  { ses with addr := ses.addr + 1, buf := ses.buf + 1, rem := ses.rem - 1 }

/-- READ's pseudocode (R204). -/
def startRead (ses : Session) (s : State) : State :=
  let addr := ses.a0.toNat
  let buf := ses.a1.toNat
  let len := ses.a2.toNat
  raiseOr (transferFault s addr buf len) (nextByte .read { ses with addr := addr, buf := buf, rem := len }) s

/-- READ (R204). -/
def execRead (s : State) : Result := command .read startRead s

/-- READ after the `MemWrite` of a byte (R204). -/
def contRead (ses : Session) (s : State) : State := nextByte .read (advanceByte ses) s

/-! ### Page programs (R210 to R217) -/

/-- The next chunk of a chunked write, or the end of the command (R215). -/
def nextChunk (op : Instr) (ses : Session) (s : State) : State :=
  if ses.rem = 0 then finish .success s else goto op .ppCmd ses s

/-- The session after the current chunk was programmed (R214). -/
def advanceChunk (ses : Session) : Session :=
  let c := chunkBytes ses
  { ses with addr := ses.addr + c, buf := ses.buf + c, rem := ses.rem - c }

/-- WRITE_CHUNK's pseudocode (R211, R212). -/
def startWriteChunk (ses : Session) (s : State) : State :=
  let addr := ses.a0.toNat
  let buf := ses.a1.toNat
  let len := ses.a2.toNat
  if pageBytes < len ∨ len % wordBytes ≠ 0 ∨ addr % wordBytes ≠ 0 then finish .invalidParameter s
  else
    raiseOr (transferFault s addr buf len)
      (goto .writeChunk .ppCmd { ses with addr := addr, buf := buf, rem := len }) s

/-- WRITE_CHUNK (R212). -/
def execWriteChunk (s : State) : Result := command .writeChunk startWriteChunk s

/-- WRITE_CHUNK after its sequence ended with `st` (R212). -/
def contWriteChunk (st : Status) (s : State) : State := finish st s

/-- WRITE's pseudocode (R215, R217). -/
def startWrite (ses : Session) (s : State) : State :=
  let addr := ses.a0.toNat
  let buf := ses.a1.toNat
  let len := ses.a2.toNat
  if addr % wordBytes ≠ 0 ∨ len % wordBytes ≠ 0 then finish .invalidParameter s
  else
    raiseOr (transferFault s addr buf len)
      (nextChunk .write { ses with addr := addr, buf := buf, rem := len }) s

/-- WRITE (R215). -/
def execWrite (s : State) : Result := command .write startWrite s

/-- WRITE after a chunk's sequence ended with `st`: any failure is fatal (R215, R216). -/
def contWrite (st : Status) (ses : Session) (s : State) : State :=
  if st ≠ .success then fatal s else nextChunk .write (advanceChunk ses) s

/-! ### Erases (R222 to R226) -/

/-- The session after the current erase unit was erased (R225). -/
def advanceUnit (s : State) (ses : Session) : Session :=
  { ses with addr := ses.addr + s.blockSize.toNat, rem := ses.rem - 1 }

/-- ERASE_SINGLE_BLOCK's pseudocode (R223). -/
def startEraseSingleBlock (ses : Session) (s : State) : State :=
  let b := ses.a0.toNat
  raiseOr (eraseAddressFault s b) (goto .eraseSingleBlock .esCmd { ses with addr := b, rem := 1 }) s

/-- ERASE_SINGLE_BLOCK (R223). -/
def execEraseSingleBlock (s : State) : Result := command .eraseSingleBlock startEraseSingleBlock s

/-- ERASE_SINGLE_BLOCK after its sequence ended with `st` (R223). -/
def contEraseSingleBlock (st : Status) (s : State) : State := finish st s

/-- The next unit of ERASE, or the end of the command (R225). -/
def nextUnit (ses : Session) (s : State) : State :=
  if ses.rem = 0 then finish .success s else goto .erase .esCmd ses s

/-- ERASE's pseudocode (R225). -/
def startErase (ses : Session) (s : State) : State :=
  let off := ses.a0.toNat
  let len := ses.a1.toNat
  let unit := s.blockSize.toNat
  if len % unit ≠ 0 then finish .invalidParameter s
  else
    raiseOr (eraseFault s off len (len / unit) unit)
      (nextUnit { ses with addr := off, rem := len / unit }) s

/-- ERASE (R225). -/
def execErase (s : State) : Result := command .erase startErase s

/-- ERASE after a unit's sequence ended with `st`: any failure is fatal (R225, R226). -/
def contErase (st : Status) (ses : Session) (s : State) : State :=
  if st ≠ .success then fatal s else nextUnit (advanceUnit s ses) s

/-! ### GET_DEVICES (R230) -/

/-- GET_DEVICES's pseudocode (R230). -/
def startGetDevices (ses : Session) (s : State) : State :=
  let r := ses.a0.toNat
  raiseOr (bufferFault s r (recordFields * fieldBytes)) (goto .getDevices .record { ses with buf := r }) s

/-- GET_DEVICES (R230). -/
def execGetDevices (s : State) : Result := command .getDevices startGetDevices s

/-- GET_DEVICES after the `MemWrite` of field `idx` (R230): the next field, or one device and the end. -/
def contGetDevices (ses : Session) (s : State) : State :=
  if ses.idx + 1 < recordFields then goto .getDevices .record { ses with idx := ses.idx + 1 } s
  else finishResult 1 s

end Sys2Proof.Machine
end

