-- ==== Sys2Proof/Machine/Facade.lean ====
section
/-! DEFINITION. The block-to-offset address translator's commands (42_facade.md). -/

namespace Sys2Proof.Machine

/-! ### GET_BLOCK_SIZE (R284) -/

/-- GET_BLOCK_SIZE's pseudocode (R284). -/
def startGetBlockSize (ses : Session) (s : State) : State :=
  let l := ses.a0.toNat
  if s.totalBlocks.toNat ≤ l then finish .invalidParameter s
  else finishResults s.blockSize (wordOf (s.totalBlocks.toNat - l)) s

/-- GET_BLOCK_SIZE (R284). -/
def execGetBlockSize (s : State) : Result := command .getBlockSize startGetBlockSize s

/-! ### FVB_READ (R285) -/

/-- FVB_READ's pseudocode (R285, R287). -/
def startFvbRead (ses : Session) (s : State) : State :=
  let l := ses.a0.toNat
  let o := ses.a1.toNat
  let len := ses.a2.toNat
  let buf := ses.a3.toNat
  if s.totalBlocks.toNat ≤ l then finish .invalidParameter s
  else if s.blockSize.toNat < o + len then finish .invalidParameter s
  else
    raiseOr (bufferFault s buf len)
      (nextByte .fvbRead { ses with addr := phys s l o, buf := buf, rem := len }) s

/-- FVB_READ (R285). -/
def execFvbRead (s : State) : Result := command .fvbRead startFvbRead s

/-- FVB_READ after the `MemWrite` of a byte (R285). -/
def contFvbRead (ses : Session) (s : State) : State := nextByte .fvbRead (advanceByte ses) s

/-! ### FVB_WRITE (R286) -/

/-- FVB_WRITE's pseudocode (R286, R287). -/
def startFvbWrite (ses : Session) (s : State) : State :=
  let l := ses.a0.toNat
  let o := ses.a1.toNat
  let len := ses.a2.toNat
  let buf := ses.a3.toNat
  if s.totalBlocks.toNat ≤ l then finish .invalidParameter s
  else if s.blockSize.toNat < o + len then finish .invalidParameter s
  else if phys s l o % wordBytes ≠ 0 ∨ len % wordBytes ≠ 0 then finish .invalidParameter s
  else
    raiseOr (bufferFault s buf len)
      (nextChunk .fvbWrite { ses with addr := phys s l o, buf := buf, rem := len }) s

/-- FVB_WRITE (R286). -/
def execFvbWrite (s : State) : Result := command .fvbWrite startFvbWrite s

/-- FVB_WRITE after a chunk's sequence ended with `st`: any failure is fatal (R286, R216). -/
def contFvbWrite (st : Status) (ses : Session) (s : State) : State :=
  if st ≠ .success then fatal s else nextChunk .fvbWrite (advanceChunk ses) s

/-! ### ERASE_BLOCKS (R288 to R291) -/

/-- The checks of one list word at the list cursor, just before it is read (R288, R353). -/
def listWordFault (s : State) (a : Nat) : Option FaultReason :=
  if s.platform.limit < a + s.platform.width.bytes then some .overflow
  else if ¬ s.platform.hostOk a s.platform.width.bytes then some .hostMem
  else none

/-- Read the next LBA word of the list (R288). -/
def nextPair (ses : Session) (s : State) : State :=
  raiseOr (listWordFault s ses.buf) (goto .eraseBlocks .listLba ses) s

/-- The next unit of the current pair, or the next pair (R288). -/
def nextPairUnit (ses : Session) (s : State) : State :=
  if ses.rem = 0 then nextPair ses s else goto .eraseBlocks .esCmd ses s

/-- ERASE_BLOCKS's pseudocode up to the first list word (R288). -/
def startEraseBlocks (ses : Session) (s : State) : State :=
  nextPair { ses with buf := ses.a0.toNat, firstErr := .success } s

/-- ERASE_BLOCKS (R288). -/
def execEraseBlocks (s : State) : Result := command .eraseBlocks startEraseBlocks s

/-- ERASE_BLOCKS after an LBA word `l` was read: the end of the list, or the count word next (R288, R160, R161). -/
def contListLba (l : Nat) (ses : Session) (s : State) : State :=
  if l = listTerminator s.platform then finish ses.firstErr s
  else
    raiseOr (listWordFault s (ses.buf + s.platform.width.bytes))
      (goto .eraseBlocks .listNum
        { ses with buf := ses.buf + s.platform.width.bytes, datum := wordOf l }) s

/-- FIRST_ERR takes the first status that is not SUCCESS (R290). -/
def keepFirst (first st : Status) : Status := if first = .success then st else first

/-- A pair `(l, n)` is valid: blocks `l` to `l+n-1` all lie in the LBA range (R289). -/
abbrev validPair (s : State) (l n : Nat) : Prop := l < s.totalBlocks.toNat ∧ n ≤ s.totalBlocks.toNat - l

/-- ERASE_BLOCKS after the count word `n` of a pair was read: an invalid pair is recorded and passed over, a valid one is
erased unit by unit (R288 to R290). -/
def contListNum (n : Nat) (ses : Session) (s : State) : State :=
  let l := ses.datum.toNat
  let next := { ses with buf := ses.buf + s.platform.width.bytes }
  if validPair s l n then nextPairUnit { next with addr := phys s l 0, rem := n } s
  else nextPair { next with firstErr := keepFirst ses.firstErr .invalidParameter } s

/-- ERASE_BLOCKS after a unit's sequence ended with `st`: any failure is fatal at once (R288, R291). -/
def contEraseBlocks (st : Status) (ses : Session) (s : State) : State :=
  if st ≠ .success then fatal s else nextPairUnit (advanceUnit s ses) s

/-! ### Attributes and physical address (R293 to R296) -/

/-- GET_ATTRIBUTES's pseudocode (R293). -/
def startGetAttributes (_ : Session) (s : State) : State := finishResult (s.attr.setWidth 64) s

/-- GET_ATTRIBUTES (R293). -/
def execGetAttributes (s : State) : Result := command .getAttributes startGetAttributes s

/-- SET_ATTRIBUTES's pseudocode: ATTR takes bits 31:0 of the operand (R294). -/
def startSetAttributes (ses : Session) (s : State) : State :=
  let v : BitVec 32 := ses.a0.extractLsb' 0 32
  finishResult (v.setWidth 64) { s with attr := v }

/-- SET_ATTRIBUTES (R294). -/
def execSetAttributes (s : State) : Result := command .setAttributes startSetAttributes s

/-- GET_PHYSICAL_ADDRESS's pseudocode (R296). -/
def startGetPhysicalAddress (_ : Session) (s : State) : State := finishResult s.regionBase s

/-- GET_PHYSICAL_ADDRESS (R296). -/
def execGetPhysicalAddress (s : State) : Result := command .getPhysicalAddress startGetPhysicalAddress s

end Sys2Proof.Machine
end

