-- ==== Sys2Proof/Machine/Lifecycle.lean ====
section
/-! DEFINITION. The relocation hook (43_lifecycle.md): RELOCATE. -/

namespace Sys2Proof.Machine

/-- RELOCATE's pseudocode (R330). -/
def startRelocate (ses : Session) (s : State) : State :=
  let nb := ses.a0
  if ¬ s.platform.PortsFit nb.toNat then raise .overflow s
  else finish .success { s with ctrlBase := nb, lstate := .relocated }

/-- RELOCATE (R330). -/
def execRelocate (s : State) : Result := command .relocate startRelocate s

end Sys2Proof.Machine
end

