-- ==== Sys2Proof/Machine/Retry.lean ====
section
/-! DEFINITION. The erase-retry controller (41_erase_retry.md): ERASE_BLOCK_RETRY. -/

namespace Sys2Proof.Machine

/-- The start of attempt `k`: RETRY_COUNT is set to `k`, the erase sequence comes next (R261, R265). -/
def beginAttempt (k : Nat) (ses : Session) (s : State) : State :=
  goto .eraseBlockRetry .esCmd { ses with attempt := k, idx := 0 } { s with retryCount := wordOf k }

/-- A failed attempt: the next one at once, or DEVICE_ERROR after the last (R262, R264). -/
def failAttempt (ses : Session) (s : State) : State :=
  if eraseRetry ≤ ses.attempt then finish .deviceError s else beginAttempt (ses.attempt + 1) ses s

/-- ERASE_BLOCK_RETRY's pseudocode (R261). -/
def startEraseBlockRetry (ses : Session) (s : State) : State :=
  let b := ses.a0.toNat
  raiseOr (eraseAddressFault s b) (beginAttempt 1 { ses with addr := b, rem := 1 }) s

/-- ERASE_BLOCK_RETRY (R261). -/
def execEraseBlockRetry (s : State) : Result := command .eraseBlockRetry startEraseBlockRetry s

/-- ERASE_BLOCK_RETRY after an erase sequence ended with `st`: polling begins, or the attempt failed (R261, R262). -/
def contEraseBlockRetry (st : Status) (ses : Session) (s : State) : State :=
  if st = .success then goto .eraseBlockRetry .poll { ses with idx := 0 } s else failAttempt ses s

/-- ERASE_BLOCK_RETRY after a POLL answered `(busy, ok)`: poll on while busy, up to POLL_LIMIT polls (R262, R263). -/
def contPoll (busy ok : Bool) (ses : Session) (s : State) : State :=
  if busy then
    if s.platform.pollLimit = some (ses.idx + 1) then failAttempt ses s
    else goto .eraseBlockRetry .poll { ses with idx := ses.idx + 1 } s
  else if ok then finish .success s
  else failAttempt ses s

end Sys2Proof.Machine
end

