-- ==== Sys2Proof/Machine/Sequencer.lean ====
section
/-! DEFINITION. The micro-steps of a running command (00_scope.md R21, 10_state.md R47, 40_engine.md R210, R222): each
performs one `Bus`, `MemRead`, `MemWrite` or `WinRead` call and goes on to the next, or to the command's end. -/

namespace Sys2Proof.Machine

/-! ### What a command does after a shared loop or sequence -/

/-- After the `MemWrite` of a copy loop (R204, R285). Only READ and FVB_READ have one; the other arms are never reached. -/
def afterCopy (op : Instr) (ses : Session) (s : State) : State :=
  match op with
  | .read => contRead ses s
  | .fvbRead => contFvbRead ses s
  | .init | .writeChunk | .write | .eraseSingleBlock | .erase | .getDevices | .eraseBlockRetry | .getBlockSize
  | .fvbWrite | .eraseBlocks | .getAttributes | .setAttributes | .getPhysicalAddress | .relocate => finish .success s

/-- After a page-program sequence that ended with `st` (R212, R215, R286). Only the three writes have one. -/
def afterProgram (op : Instr) (st : Status) (ses : Session) (s : State) : State :=
  match op with
  | .writeChunk => contWriteChunk st s
  | .write => contWrite st ses s
  | .fvbWrite => contFvbWrite st ses s
  | .init | .read | .eraseSingleBlock | .erase | .getDevices | .eraseBlockRetry | .getBlockSize | .fvbRead
  | .eraseBlocks | .getAttributes | .setAttributes | .getPhysicalAddress | .relocate => finish st s

/-- After a single-block erase sequence that ended with `st` (R223, R225, R261, R288). Only the four erases have one. -/
def afterErase (op : Instr) (st : Status) (ses : Session) (s : State) : State :=
  match op with
  | .eraseSingleBlock => contEraseSingleBlock st s
  | .erase => contErase st ses s
  | .eraseBlockRetry => contEraseBlockRetry st ses s
  | .eraseBlocks => contEraseBlocks st ses s
  | .init | .read | .writeChunk | .write | .getDevices | .getBlockSize | .fvbRead | .fvbWrite
  | .getAttributes | .setAttributes | .getPhysicalAddress | .relocate => finish st s

/-! ### Page program -/

/-- After step (3), or a DATA event: the next data word, or FLUSH when word `i` is past the chunk (R210 step 4). -/
def nextWord (op : Instr) (i : Nat) (ses : Session) (s : State) : State :=
  if i < chunkBytes ses / wordBytes then goto op .ppFetch { ses with idx := i } s else goto op .ppFlush ses s

/-- The window address of the data word `idx` of the current chunk (R210). -/
def wordAddr (ses : Session) : Nat := ses.addr + wordBytes * ses.idx

/-- The micro-step at position `k` of a running command, with the draws `d`. A configure event answered ERROR ends the
sequence with DEVICE_ERROR (R210, R222). -/
def microAt (op : Instr) (k : Pos) (ses : Session) (d : Draw) (s : State) : State :=
  match k with
  | .winRead => goto op .memWrite { ses with datum := (winRead s ses.addr d.byte).setWidth 64 } s
  | .memWrite => afterCopy op ses (memWrite ses.buf 1 ses.datum.toNat s)
  | .ppCmd => if d.ok then goto op .ppLoad ses (emitCmd d s) else afterProgram op .deviceError ses (emitCmd d s)
  | .ppLoad => if d.ok then goto op .ppWe ses (emitLoad d s) else afterProgram op .deviceError ses (emitLoad d s)
  | .ppWe =>
    let t := emitWcfg s.platform.weValue d s
    if d.ok then nextWord op 0 ses t else afterProgram op .deviceError ses t
  | .ppFetch =>
    goto op .ppData { ses with datum := wordOf (memRead s (ses.buf + wordBytes * ses.idx) wordBytes) } s
  | .ppData => nextWord op (ses.idx + 1) ses (emitData (wordAddr ses) (ses.datum.setWidth 32) s)
  | .ppFlush =>
    if d.ok then goto op .ppClear ses (emitFlush d s) else afterProgram op .deviceError ses (emitFlush d s)
  | .ppClear =>
    let t := emitWcfg s.platform.weClearValue d s
    if d.ok then afterProgram op .success ses t else afterProgram op .deviceError ses t
  | .esCmd => if d.ok then goto op .esLoad ses (emitCmd d s) else afterErase op .deviceError ses (emitCmd d s)
  | .esLoad => if d.ok then goto op .esAddr ses (emitLoad d s) else afterErase op .deviceError ses (emitLoad d s)
  | .esAddr =>
    let t := emitAddr ses.addr d s
    if d.ok then goto op .esLatch ses t else afterErase op .deviceError ses t
  | .esLatch =>
    let t := emitLatch ses.addr d s
    if d.ok then afterErase op .success ses t else afterErase op .deviceError ses t
  | .poll =>
    let a := pollAnswer s.platform s.chip d
    contPoll a.1 a.2 ses (emitPoll a.1 a.2 s)
  | .listLba => contListLba (memRead s ses.buf s.platform.width.bytes) ses s
  | .listNum => contListNum (memRead s ses.buf s.platform.width.bytes) ses s
  | .record =>
    contGetDevices ses (memWrite (ses.buf + fieldBytes * ses.idx) fieldBytes (descriptorField s ses.idx).toNat s)

/-- The sequencer's next micro-step; an idle block has none (R47). -/
def microStep (d : Draw) (s : State) : State :=
  match s.seq with
  | .idle => s
  | .active op k ses => microAt op k ses d s

/-- Micro-steps one after another, one for each draw, with nothing between them. -/
def runMicro : List Draw → State → State
  | [], s => s
  | d :: ds, s => runMicro ds (microStep d s)

/-- The block and the chip go on by themselves, on free values: the chip may complete a pending erase (R104); otherwise a
running command takes its next micro-step; a block with nothing to do stays as it is (assumption log 5). -/
def autonomous (s : State) : State :=
  if s.busy = false ∧ s.chip.pending = [] then s
  else
    let c := Config.chipDraw s.draws
    let t := { s with draws := s.draws + 1 }
    if c.acts = true ∧ s.chip.pending ≠ [] then
      chipComplete (s.chip.pending.getD (c.index % s.chip.pending.length) 0) c.success t
    else microStep (Config.draw s.draws) t

end Sys2Proof.Machine
end

