-- ==== Sys2Proof/Machine/Dispatch.lean ====
section
/-! DEFINITION. The meaning of each command: what a host write of its opcode to CMD does (60_exceptions.md R351). -/

namespace Sys2Proof.Machine

/-- One arm per command, each a direct call of its meaning. -/
def exec (i : Instr) (s : State) : Host.Outcome State Fault Refusal :=
  match i with
  | .init => Sys2Proof.Machine.execInit s
  | .read => Sys2Proof.Machine.execRead s
  | .writeChunk => Sys2Proof.Machine.execWriteChunk s
  | .write => Sys2Proof.Machine.execWrite s
  | .eraseSingleBlock => Sys2Proof.Machine.execEraseSingleBlock s
  | .erase => Sys2Proof.Machine.execErase s
  | .getDevices => Sys2Proof.Machine.execGetDevices s
  | .eraseBlockRetry => Sys2Proof.Machine.execEraseBlockRetry s
  | .getBlockSize => Sys2Proof.Machine.execGetBlockSize s
  | .fvbRead => Sys2Proof.Machine.execFvbRead s
  | .fvbWrite => Sys2Proof.Machine.execFvbWrite s
  | .eraseBlocks => Sys2Proof.Machine.execEraseBlocks s
  | .getAttributes => Sys2Proof.Machine.execGetAttributes s
  | .setAttributes => Sys2Proof.Machine.execSetAttributes s
  | .getPhysicalAddress => Sys2Proof.Machine.execGetPhysicalAddress s
  | .relocate => Sys2Proof.Machine.execRelocate s

end Sys2Proof.Machine
end

