-- ==== Sys2Proof/Machine/HostPort.lean ====
section
/-! DEFINITION. The moves of the host and the platform: register accesses (30_encoding.md R131 to R136, 60_exceptions.md
R351, R352, R360), window reads (20_memory.md R94), stores into host memory, and the move of each kind of input. -/

namespace Sys2Proof.Machine

/-- The offset of a bus address in the block's register space; none for an address that is not the block's: one below
`BLOCK_BASE`, or one at `2^W` or above, which is no address (R10, R80, R131). -/
def registerOffset (s : State) (addr : Nat) : Option Nat :=
  if s.platform.blockBase ≤ addr ∧ addr < s.platform.limit then some (addr - s.platform.blockBase) else none

/-- A write of a word that is no command to CMD, in the order of R351 (R143). -/
def rejectOpcode (v : Word) (s : State) : State :=
  if s.fault then s
  else if s.busy then hostFault .busy s
  else raise .illegalOp { s with cmd := (opField v).setWidth 64 }

/-- A host write to CMD: the decoded command's meaning, or F_ILLEGAL_OP (R140, R351). -/
def writeCmd (v : Word) (s : State) : Result :=
  match decode v with
  | .ok i => exec i s
  | .error _ => .next (rejectOpcode v s)

/-- A host write to an ARG register, given the register's update (R134). -/
def writeArg (store : Word → State → State) (v : Word) (s : State) : State :=
  if s.fault then s
  else if s.busy then hostFault .busy s
  else store (s.platform.width.trunc v) s

/-- A host write to a register; one to a read-only register is ignored (R133). -/
def writeReg (r : Reg) (v : Word) (s : State) : Result :=
  match r with
  | .cmd => writeCmd v s
  | .arg0 => .next (writeArg (fun w t => { t with arg0 := w }) v s)
  | .arg1 => .next (writeArg (fun w t => { t with arg1 := w }) v s)
  | .arg2 => .next (writeArg (fun w t => { t with arg2 := w }) v s)
  | .arg3 => .next (writeArg (fun w t => { t with arg3 := w }) v s)
  | .status | .result0 | .result1 | .retryCount | .opcount | .cmdset | .ctrlBase | .devBase | .regionBase | .regionSize
  | .blockSize | .tagLo | .tagHi | .totalBlocks | .attr => .next s

/-- A host access of a wrong width, alignment or offset (R132); ignored by a faulted block (R360). -/
def wrongAccess (s : State) : State := if s.fault then s else hostFault .hostAccess s

/-- The data of a read of a wrong form: 0 from a faulted block (R360); from another one the spec gives none, so it is a
free value (assumption log 15). -/
def wrongReadData (s : State) : Word := if s.fault then 0 else Config.faultedRead s.draws

/-- A host register write (R132 to R134). -/
def hostWrite (addr width : Nat) (v : Word) (s : State) : Result :=
  match registerOffset s addr with
  | none => .fault (.noSuchAddress addr)
  | some offset =>
    match accessedReg offset width with
    | some r => writeReg r v s
    | none => .next (wrongAccess s)

/-- A host register read (R132, R136). -/
def hostRead (addr width : Nat) (s : State) : Result :=
  match registerOffset s addr with
  | none => .fault (.noSuchAddress addr)
  | some offset =>
    match accessedReg offset width with
    | some r => .next { s with readData := readReg s r }
    | none => .next { wrongAccess s with readData := wrongReadData s, draws := s.draws + 1 }

/-- A direct host read of a window byte: a draw while a command runs (R94), otherwise what `WinRead` gives (R114). Before
INIT the spec gives no window, and the byte is a draw (assumption log 23). At `2^W` and above there is no address (R80). -/
def hostWindowRead (a : Nat) (d : Draw) (s : State) : Result :=
  if s.platform.limit ≤ a then .fault (.noSuchAddress a)
  else if s.lstate = .uninit then .next { s with readData := d.byte.setWidth 64 }
  else if inWindow s a 1 then
    .next { s with readData := (if s.busy then d.byte else winRead s a d.byte).setWidth 64 }
  else .fault (.noSuchAddress a)

/-- A host store into host memory (R397). -/
def hostStore (a : Nat) (b : Byte) (s : State) : Result :=
  if a < s.platform.limit then .next { s with mem := writeByte s.mem a b } else .fault (.noSuchAddress a)

/-- The platform changes what INIT finds, while LSTATE is UNINIT; otherwise it is fixed and the change is void (R11, R56,
R395; assumption log 22). That a reset after a successful INIT, which makes LSTATE UNINIT, allows a change again is a
DESIGN CHOICE of the model: the spec does not say (assumption log 27). -/
def platformChange (present capabilityPresent resourcesOk : Bool) (s : State) : State :=
  if s.lstate = .uninit then
    { s with platform := { s.platform with cfg := { s.platform.cfg with
        present := present, capabilityPresent := capabilityPresent, resourcesOk := resourcesOk } } }
  else s

/-- The host polls STATUS: while BUSY = 1 the sequencer moves and the poll goes on; then STATUS is read (R162). The state
given has the poll already taken from its inputs. -/
def awaitIdle (ds : List Draw) (s : State) : State :=
  if s.busy then
    match ds with
    | [] => let t := autonomous s; { t with inputs := .awaitIdle [] :: t.inputs }
    | d :: r => let t := microStep d s; { t with inputs := .awaitIdle r :: t.inputs }
  else { s with readData := statusWord s }

/-- The move of one input; the state given has it already taken from its inputs. -/
def move (e : Input) (s : State) : Result :=
  match e with
  | .hostWrite addr width v => hostWrite addr width v s
  | .hostRead addr width => hostRead addr width s
  | .awaitIdle ds => .next (awaitIdle ds s)
  | .hostWindowRead a d => hostWindowRead a d s
  | .hostStore a b => hostStore a b s
  | .sequencer d => .next (microStep d s)
  | .complete k success => .next (chipComplete k success s)
  | .blockReset => .next (blockReset s)
  | .powerCycle mem => .next (powerCycle mem s)
  | .platformChange p c r => .next (platformChange p c r s)

/-- The inputs of a program line (R162): the host writes of its operands and opcode, then polls of STATUS until
BUSY = 0. -/
def lineInputs (p : Platform) (l : Line) (ds : List Draw) : List Input :=
  (encodeLine l).map (fun e => .hostWrite (p.blockBase + e.1) 8 e.2) ++ [.awaitIdle ds]

end Sys2Proof.Machine
end

