-- ==== Sys2Proof/Machine/Step.lean ====
section
/-! DEFINITION. One step of the machine: the next move of the environment's script, or, with the script empty, a move of
the block or the chip by itself (00_scope.md R9, R21; assumption logs 3 and 5). -/

namespace Sys2Proof.Machine

/-- One step. An ill-formed platform is refused (R57). -/
def step (s : State) : Host.Outcome State Fault Refusal :=
  if s.platform.WF then
    match s.inputs with
    | [] => .next (autonomous s)
    | e :: rest => move e { s with inputs := rest }
  else .refused .illFormedPlatform

/-- `s` with a host write of the command word of `nbits` bits to CMD as its next move: the block fetches nothing (R391), a
command comes by such a write and no other way (R31, R140; assumption log 20). -/
def State.withFetchWord (s : State) (nbits w : Nat) : State :=
  { s with
    inputs := .hostWrite (s.platform.blockBase + regOffset .cmd) 8 (wordOf (w % 2 ^ nbits)) :: s.inputs }

end Sys2Proof.Machine
end

