-- ==== Sys2Proof/Safety.lean ====
section
/-! DEFINITION. The terms claims are stated in: when a command is accepted, how a run ends (70_reset_and_hazards.md R396),
what holds of every reachable state, and the bus events a sequence is made of. -/

namespace Sys2Proof.Machine

/-! ### Acceptance -/

/-- The state accepts command `i`: the platform is well formed and every line of R351 before acceptance passes. -/
abbrev Accepting (i : Instr) (s : State) : Prop :=
  s.platform.WF ∧ s.fault = false ∧ s.busy = false ∧ s.halted = false ∧ lifecycleFault i s.lstate = none

/-- `s` with the ARG registers holding the operands `vs`, from ARG0 on; the others keep their value (R162). -/
def loadArgs (vs : List Nat) (s : State) : State :=
  { s with
    arg0 := (vs[0]?.map wordOf).getD s.arg0
    arg1 := (vs[1]?.map wordOf).getD s.arg1
    arg2 := (vs[2]?.map wordOf).getD s.arg2
    arg3 := (vs[3]?.map wordOf).getD s.arg3 }

/-- The window gives what the array holds: the chip is not undefined and no erase is pending (R90). -/
abbrev Readable (s : State) : Prop :=
  s.chip.undef = false ∧ (s.platform.eraseCompletion = .async → s.chip.pending = [])

/-- What a byte of a known condition reads as (R90). -/
def valueOf : Cond → Option Byte
  | .erased => some erasedByte
  | .programmed v => some v
  | .undefined => none

/-- Every draw answers OK (R158). -/
abbrev AllOk (ds : List Draw) : Prop := ∀ d ∈ ds, d.ok = true

/-! ### Runs of a host program and their ends (R162, R396) -/

/-- The move resets the block: block reset or power cycle (R390, R394). -/
def Input.isReset : Input → Bool
  | .blockReset => true
  | .powerCycle _ => true
  | .hostWrite _ _ _ => false
  | .hostRead _ _ => false
  | .awaitIdle _ => false
  | .hostWindowRead _ _ => false
  | .hostStore _ _ => false
  | .sequencer _ => false
  | .complete _ _ => false
  | .platformChange _ _ _ => false

/-- What the host does for a program (R162): a register write, or the reads of STATUS that end a line. -/
inductive HostMove where
  | write (addr width : Nat) (value : Word)
  | wait
deriving DecidableEq, Repr

/-- The program move that an input is; every other input is no part of a program. -/
def Input.hostMove : Input → Option HostMove
  | .hostWrite addr width v => some (.write addr width v)
  | .awaitIdle _ => some .wait
  | .hostRead _ _ => none
  | .hostWindowRead _ _ => none
  | .hostStore _ _ => none
  | .sequencer _ => none
  | .complete _ _ => none
  | .blockReset => none
  | .powerCycle _ => none
  | .platformChange _ _ _ => none

/-- The host moves that a program stands for: each line's register writes, then its wait (R162). -/
def programMoves (p : Platform) (prog : List Line) : List HostMove :=
  prog.flatMap fun l => (encodeLine l).map (fun e => .write (p.blockBase + e.1) 8 e.2) ++ [.wait]

/-- The host's register writes are all done: what is left of its script writes no register (R396, "the host has issued
its last command"). -/
abbrev WritesDone (s : State) : Prop := ∀ m ∈ s.inputs.filterMap Input.hostMove, m = .wait

/-- Every reset of a script comes before a register write of the host, so that none falls after the last command. -/
def resetsBeforeLast : List Input → Bool
  | [] => true
  | e :: r => (!e.isReset || (r.filterMap Input.hostMove).any (· != .wait)) && resetsBeforeLast r

/-- The script of `s` is a run of the program `prog` that begins here: the program's host moves in order (R162, R396), and
among them any moves of the other agents. That block resets and power cycles may be among them, as in program P4 of
95_test_vectors.md, but not after the last command, is a DESIGN CHOICE of the model: R396 does not say (assumption
log 28). -/
abbrev StartsProgram (prog : List Line) (s : State) : Prop :=
  prog ≠ [] ∧ (∀ l ∈ prog, l.WF s.platform) ∧ s.inputs.filterMap Input.hostMove = programMoves s.platform prog ∧
  resetsBeforeLast s.inputs = true

/-- The run of `prog` that begins at `s` has come to `t`, and the host has issued its last command (R396). -/
def issuedLast (prog : List Line) (s t : State) : Prop :=
  StartsProgram prog s ∧ (∃ n, Sys2Proof.core.run n s = .next t) ∧ WritesDone t

/-- Nothing is going on and no fault is recorded: BUSY = 0, FAULT = 0 and, in ASYNC mode, no erase pending (R396). -/
abbrev Quiet (s : State) : Prop :=
  s.busy = false ∧ s.fault = false ∧ (s.platform.eraseCompletion = .async → s.chip.pending = [])

/-- The run of `prog` from `s` has its normal end at `t`. -/
def normalEnd (prog : List Line) (s t : State) : Prop := issuedLast prog s t ∧ Quiet t

/-- The run of `prog` from `s` has its halted end at `t`: a normal end with HALTED = 1. -/
def haltedEnd (prog : List Line) (s t : State) : Prop := normalEnd prog s t ∧ t.halted = true

/-- The run of `prog` from `s` ends faulted at `t`, which is never a normal end. -/
def faultedEnd (prog : List Line) (s t : State) : Prop := issuedLast prog s t ∧ t.fault = true

/-- The end state of a run: the register bank, the flash array with the chip-undefined flag, host memory, the history. -/
structure EndState where
  bank : List Word
  flash : Flash
  undef : Bool
  mem : Memory
  history : List BusEvent
deriving DecidableEq, Repr

/-- The registers of the bank, in the order of R131. -/
def allRegs : List Reg :=
  [.cmd, .arg0, .arg1, .arg2, .arg3, .status, .result0, .result1, .retryCount, .opcount, .cmdset, .ctrlBase, .devBase,
    .regionBase, .regionSize, .blockSize, .tagLo, .tagHi, .totalBlocks, .attr]

/-- The end state of a run that ends at a state. -/
def endState (s : State) : EndState where
  bank := allRegs.map (readReg s)
  flash := s.chip.flash
  undef := s.chip.undef
  mem := s.mem
  history := s.history

/-- The run of `prog` from `s` has the end state `e`; a run in which a command never ends has none (R396). -/
def hasEndState (prog : List Line) (s : State) (e : EndState) : Prop :=
  ∃ t, (normalEnd prog s t ∨ faultedEnd prog s t) ∧ e = endState t

/-! ### The events of a sequence -/

/-- What an event is, apart from its number and answer: kind, register or opcode, value, target (R155). -/
abbrev EventBody := EventKind × Option Word × Option Word × Option Nat

/-- The body of a record. -/
def BusEvent.body (e : BusEvent) : EventBody := (e.kind, e.registerOrOpcode, e.value, e.target)

/-- Records numbered from `n` on, all answered OK (R155). -/
def answeredOk (n : Nat) (bodies : List EventBody) : List BusEvent :=
  bodies.zipIdx.map fun (b, i) => ⟨n + i, b.1, b.2.1, b.2.2.1, b.2.2.2, .ok⟩

/-- The data word that DATA event `i` of a page program from host address `buf` carries (R210). -/
def dataWord (s : State) (buf i : Nat) : BitVec 32 := BitVec.ofNat 32 (readBytes s.mem (buf + 4 * i) 4)

/-- The events of a page program of `len` bytes at `addr` from `buf`, in the order of R210. -/
def programEvents (s : State) (addr buf len : Nat) : List EventBody :=
  [(.cfgCmd, some ((ppOpOf s.cmdset).setWidth 64), some s.platform.ctrlFixed, some (portAddr s .command)),
    (.cfgLoad, some ((ppOpOf s.cmdset).setWidth 64), some s.platform.loadValue, some (portAddr s .load)),
    (.cfgWcfg, some s.platform.regWcfg, some s.platform.weValue, some (portAddr s .writeConfig))] ++
  (List.range (len / 4)).map (fun i =>
    (.data, none, some ((dataWord s buf i).setWidth 64), some (addr + 4 * i))) ++
  [(.cfgFlush, some s.platform.regFlush, some s.platform.flushValue, some (portAddr s .flush)),
    (.cfgWcfg, some s.platform.regWcfg, some s.platform.weClearValue, some (portAddr s .writeConfig))]

/-- The four events of a single-block erase of address `b`, in the order of R222. -/
def eraseEvents (s : State) (b : Nat) : List EventBody :=
  [(.cfgCmd, some ((ppOpOf s.cmdset).setWidth 64), some s.platform.ctrlFixed, some (portAddr s .command)),
    (.cfgLoad, some ((ppOpOf s.cmdset).setWidth 64), some s.platform.loadValue, some (portAddr s .load)),
    (.cfgAddr, some ((eraseOpOf s.cmdset).setWidth 64), some (wordOf b), some (portAddr s .address)),
    (.cfgLoad, some ((eraseOpOf s.cmdset).setWidth 64), some s.platform.loadValue, some (portAddr s .load))]

/-! ### What a command leaves -/

/-- What a command that ended with status `c` after beginning `n` sequences leaves (R354, R42); every field of `s` that
is not named is unchanged. OPCOUNT is a `W`-bit register. -/
def ended (i : Instr) (c : Status) (n : Nat) (s : State) : State :=
  { s with
    cmd := encode i
    resultCode := c
    opcount := s.platform.width.trunc (wordOf n)
    busy := false
    seq := .idle }

/-- What a fault raised by one of an accepted command's own checks leaves (R353, R360). -/
def faultEnd (i : Instr) (r : FaultReason) (s : State) : State :=
  { s with cmd := encode i, opcount := 0, fault := true, faultReason := r, busy := false, seq := .idle }

/-- What a fault raised by a host access leaves; `mid` says that it cuts a sequence off (R360, R100). -/
def hostFaultEnd (r : FaultReason) (mid : Bool) (s : State) : State :=
  { s with
    fault := true
    faultReason := r
    busy := false
    seq := .idle
    chip := { s.chip with undef := s.chip.undef || mid } }

/-- A host buffer passes its checks (R353): nothing is checked for length 0. -/
abbrev BufferOk (s : State) (buf len : Nat) : Prop :=
  len = 0 ∨ (buf + len ≤ s.platform.limit ∧ s.platform.hostOk buf len)

/-- A transfer between the window and a host buffer passes its checks (R353): nothing is checked for length 0. -/
abbrev TransferOk (s : State) (addr buf len : Nat) : Prop :=
  len = 0 ∨
  (addr + len ≤ s.platform.limit ∧ buf + len ≤ s.platform.limit ∧ s.devBase.toNat ≤ addr ∧
    addr + len ≤ s.devBase.toNat + s.platform.flashSize ∧ s.platform.hostOk buf len)

/-- What a run of `2 * len` micro-steps from the command write of `i` does when it copies `len` window bytes at `addr` to
the host buffer at `buf` (R204): each byte is what `WinRead` gives, with that micro-step's draw, and nothing else
changes. -/
def copyRun (i : Instr) (addr buf len : Nat) (s : State) : Prop :=
  ∃ t, exec i s = .next t ∧ ∀ ds : List Draw, ds.length = 2 * len →
    ∃ m, runMicro ds t = { ended i .success 0 s with mem := m } ∧ m.wf = true ∧
      ∀ x, readByte m x =
        if buf ≤ x ∧ x < buf + len then winRead s (addr + (x - buf)) (ds.getD (2 * (x - buf)) default).byte
        else readByte s.mem x

/-- The chip is undefined once a sequence has begun: it was before, or an erase is pending in ASYNC mode (R106). -/
def undefOnceBegun (s : State) : Bool :=
  s.chip.undef || (s.platform.eraseCompletion == .async && !s.chip.pending.isEmpty)

/-- The chunks of a write of `len` bytes, as (offset, size), in increasing order (R214). -/
def chunkList (len : Nat) : List (Nat × Nat) :=
  (List.range ((len + 255) / 256)).map fun k => (256 * k, min 256 (len - 256 * k))

/-- What a run from the command write of `i` does when it programs `len` bytes at `addr` from `buf` in the given chunks,
every answer OK and nothing between its micro-steps (R210, R215, R97, R98, R101): the chunks' events in order, one
OPCOUNT a chunk, each byte of the range programmed with its buffer byte if it was ERASED and UNDEFINED otherwise, no
other byte and no host memory changed. -/
def programRun (i : Instr) (addr buf len : Nat) (chunks : List (Nat × Nat)) (s : State) : Prop :=
  ∃ t, exec i s = .next t ∧
    ∀ ds : List Draw, ds.length = (chunks.map fun c => 5 + 2 * (c.2 / 4)).sum → AllOk ds →
      ∃ f page, runMicro ds t =
          { ended i .success chunks.length s with
            history := s.history ++ answeredOk s.history.length
              (chunks.flatMap fun c => programEvents s (addr + c.1) (buf + c.1) c.2)
            chip := { s.chip with
              flash := f
              undef := if chunks = [] then s.chip.undef else undefOnceBegun s
              page := page } } ∧
        canonicalFlash f = true ∧
        ∀ x, condAt f x =
          if addr - s.devBase.toNat ≤ x ∧ x < addr - s.devBase.toNat + len then
            if condAt s.chip.flash x = .erased ∧ undefOnceBegun s = false then
              .programmed (readByte s.mem (buf + (x - (addr - s.devBase.toNat))))
            else .undefined
          else condAt s.chip.flash x

/-- Array byte `x` lies in the erase unit that contains window address `b` (R99). -/
abbrev InUnit (s : State) (b x : Nat) : Prop :=
  let k := (b - s.platform.cfg.devBase.toNat) / s.platform.cfg.blockSize.toNat
  k * s.platform.cfg.blockSize.toNat ≤ x ∧ x < (k + 1) * s.platform.cfg.blockSize.toNat

/-- What a run from the command write of `i` does, in IMMEDIATE mode, when it reads `reads` list words and erases the units
of the addresses `bs`, every answer OK and nothing between its micro-steps (R222, R225, R99, R101): four events an
address, one OPCOUNT an address, every byte of the units ERASED (UNDEFINED on an undefined chip), no other byte and no
host memory changed. -/
def eraseRun (i : Instr) (c : Status) (reads : Nat) (bs : List Nat) (s : State) : Prop :=
  ∃ t, exec i s = .next t ∧ ∀ ds : List Draw, ds.length = reads + 4 * bs.length → AllOk ds →
    ∃ f page, runMicro ds t =
        { ended i c bs.length s with
          history := s.history ++ answeredOk s.history.length (bs.flatMap fun b => eraseEvents s b)
          chip := { s.chip with flash := f, page := page } } ∧
      canonicalFlash f = true ∧
      ∀ x, condAt f x =
        if ∃ b ∈ bs, InUnit s b x then (if s.chip.undef then .undefined else .erased) else condAt s.chip.flash x

/-! ### Erase-block lists (R160) -/

/-- A list word at host address `a` passes its checks and holds `v` (R288). -/
def WordAt (s : State) (a v : Nat) : Prop :=
  a + s.platform.width.bytes ≤ s.platform.limit ∧ s.platform.hostOk a s.platform.width.bytes ∧
  readBytes s.mem a s.platform.width.bytes = v

/-- Host memory holds an erase-block list of the given pairs at `p`, terminator last (R160, R161). -/
def ListAt (s : State) (p : Nat) : List (Nat × Nat) → Prop
  | [] => WordAt s p (s.platform.limit - 1)
  | (l, n) :: r =>
    WordAt s p l ∧ l ≠ s.platform.limit - 1 ∧ WordAt s (p + s.platform.width.bytes) n ∧
    ListAt s (p + 2 * s.platform.width.bytes) r

/-- The erase addresses of a pair: of each of its blocks if the pair is valid, none otherwise (R288, R289). -/
def pairUnits (s : State) (e : Nat × Nat) : List Nat :=
  if e.1 < s.totalBlocks.toNat ∧ e.2 ≤ s.totalBlocks.toNat - e.1 then
    (List.range e.2).map fun j => s.regionBase.toNat + e.1 * s.blockSize.toNat + j * s.blockSize.toNat
  else []

/-- The status a list of pairs gives when no unit fails (R290). -/
def listStatus (s : State) (ps : List (Nat × Nat)) : Status :=
  if ∀ e ∈ ps, e.1 < s.totalBlocks.toNat ∧ e.2 ≤ s.totalBlocks.toNat - e.1 then .success else .invalidParameter

/-! ### Moves from outside -/

/-- The step that `s` takes next resets the block. -/
def resetNext (s : State) : Bool := (s.inputs.head?.map Input.isReset).getD false

/-- The step that `s` takes next is a host write of a command word that decodes to `i` (R140). -/
def commandNext (i : Instr) (s : State) : Prop :=
  ∃ v rest, s.inputs = .hostWrite (s.platform.blockBase + 0x000) 8 v :: rest ∧ decode v = .ok i

/-! ### Invariants -/

/-- Host memory and the flash array are in canonical form, and host memory lists no byte at `2^W` or above (R80). -/
def MemoryInv (s : State) : Prop :=
  s.mem.wf = true ∧ s.mem.below s.platform.limit = true ∧ canonicalFlash s.chip.flash = true

/-- The flags of STATUS agree with each other and with SEQ (R34, R37, R39, R47): BUSY exactly when SEQ is not IDLE, a
reason exactly when there is a fault, no command running in a faulted, halted or uninitialised block. -/
def StatusInv (s : State) : Prop :=
  (s.busy = true ↔ s.seq ≠ .idle) ∧ (s.fault = true ↔ s.faultReason ≠ .noFault) ∧
  (s.fault = true → s.busy = false) ∧ (s.halted = true → s.busy = false ∧ s.resultCode = .unrecoverable) ∧
  (s.lstate = .uninit → s.busy = false)

/-- The descriptor registers, TOTAL_BLOCKS and CMDSET hold what INIT loaded, and the controller's ports fit the address
space (R43, R44, R51 to R53, R57, R330); CTRL_BASE is the configured one until RELOCATE (R45); before INIT they are 0
(R58). -/
def DescriptorInv (s : State) : Prop :=
  let c := s.platform.cfg
  (s.lstate ≠ .uninit →
    s.platform.Geometry ∧ s.cmdset = cmdsetOf c.ppOp c.eraseOp c.writeOp ∧ s.devBase = c.devBase ∧
    s.regionBase = c.regionBase ∧ s.regionSize = c.regionSize ∧ s.blockSize = c.blockSize ∧
    s.tagLo = c.tag.extractLsb' 0 64 ∧ s.tagHi = c.tag.extractLsb' 64 64 ∧
    s.totalBlocks.toNat = c.regionSize.toNat / c.blockSize.toNat ∧ s.platform.PortsFit s.ctrlBase.toNat) ∧
  (s.lstate = .ready → s.ctrlBase = c.ctrlBase) ∧
  (s.lstate = .uninit →
    s.cmdset = 0 ∧ s.ctrlBase = 0 ∧ s.devBase = 0 ∧ s.regionBase = 0 ∧ s.regionSize = 0 ∧ s.blockSize = 0 ∧
    s.tagLo = 0 ∧ s.tagHi = 0 ∧ s.totalBlocks = 0 ∧ s.attr = 0)

/-- Every register keeps to its width (R30, R31, R41, R43, R51). -/
def WidthInv (s : State) : Prop :=
  s.cmd.toNat < 256 ∧ s.arg0.toNat < s.platform.limit ∧ s.arg1.toNat < s.platform.limit ∧
  s.arg2.toNat < s.platform.limit ∧ s.arg3.toNat < s.platform.limit ∧ s.result0.toNat < s.platform.limit ∧
  s.result1.toNat < s.platform.limit ∧ s.retryCount.toNat ≤ eraseRetry ∧ s.opcount.toNat < s.platform.limit ∧
  s.cmdset.toNat < 2 ^ 24 ∧ s.ctrlBase.toNat < s.platform.limit ∧ s.devBase.toNat < s.platform.limit ∧
  s.regionBase.toNat < s.platform.limit ∧ s.regionSize.toNat < s.platform.limit ∧
  s.blockSize.toNat < s.platform.limit ∧ s.totalBlocks.toNat < s.platform.limit

/-- The history numbers its records from 0 (R155) and is empty before INIT, and every data store goes to a multiple of 4
inside the window (R153, R91). -/
def HistoryInv (s : State) : Prop :=
  s.history.map BusEvent.n = List.range s.history.length ∧ (s.lstate = .uninit → s.history = []) ∧
  ∀ e ∈ s.history, e.kind = .data → ∃ a, e.target = some a ∧ a % 4 = 0 ∧ inWindow s a 4

/-- The chip's PENDING is a set of units of the window, kept rising, and empty in IMMEDIATE mode (R103, R104). -/
def PendingInv (s : State) : Prop :=
  s.chip.pending.Pairwise (· < ·) ∧ (s.platform.eraseCompletion = .immediate → s.chip.pending = []) ∧
  ∀ k ∈ s.chip.pending, (k + 1) * s.platform.cfg.blockSize.toNat ≤ s.platform.flashSize

/-- What a running command still has to do stays where its checks put it (R91, R353): window bytes inside the window,
host bytes below `2^W` and inside an admitted range, chunks aligned (R89), at most ten attempts (R261). -/
def SessionOk (s : State) (op : Instr) (k : Pos) (ses : Session) : Prop :=
  match k with
  | .winRead | .memWrite =>
    (op = .read ∨ op = .fvbRead) ∧ 0 < ses.rem ∧ inWindow s ses.addr ses.rem ∧
    ses.buf + ses.rem ≤ s.platform.limit ∧ s.platform.hostOk ses.buf ses.rem
  | .ppCmd | .ppLoad | .ppWe | .ppFetch | .ppData | .ppFlush | .ppClear =>
    (op = .writeChunk ∨ op = .write ∨ op = .fvbWrite) ∧ (op = .writeChunk → ses.rem ≤ pageBytes) ∧
    ses.addr % 4 = 0 ∧ ses.rem % 4 = 0 ∧ inWindow s ses.addr ses.rem ∧
    (ses.rem = 0 ∨ ses.buf + ses.rem ≤ s.platform.limit) ∧ s.platform.hostOk ses.buf ses.rem ∧
    (k = .ppFetch ∨ k = .ppData → ses.idx < chunkBytes ses / 4)
  | .esCmd | .esLoad | .esAddr | .esLatch =>
    (op = .eraseSingleBlock ∨ op = .erase ∨ op = .eraseBlocks ∨ op = .eraseBlockRetry) ∧ 0 < ses.rem ∧
    inWindow s ses.addr ((ses.rem - 1) * s.blockSize.toNat + 1) ∧
    (op = .eraseBlockRetry → ses.rem = 1 ∧ 1 ≤ ses.attempt ∧ ses.attempt ≤ eraseRetry)
  | .poll =>
    op = .eraseBlockRetry ∧ ses.rem = 1 ∧ inWindow s ses.addr 1 ∧ 1 ≤ ses.attempt ∧ ses.attempt ≤ eraseRetry
  | .listLba | .listNum =>
    op = .eraseBlocks ∧ ses.buf + s.platform.width.bytes ≤ s.platform.limit ∧
    s.platform.hostOk ses.buf s.platform.width.bytes
  | .record =>
    op = .getDevices ∧ ses.idx < recordFields ∧ ses.buf + recordFields * fieldBytes ≤ s.platform.limit ∧
    s.platform.hostOk ses.buf (recordFields * fieldBytes)

/-- A running command's session is in bounds. -/
def SessionInv (s : State) : Prop :=
  match s.seq with
  | .idle => True
  | .active op k ses => s.lstate ≠ .uninit ∧ SessionOk s op k ses

/-- What holds of every reachable state. -/
structure Inv (s : State) : Prop where
  memory : MemoryInv s
  status : StatusInv s
  descriptor : DescriptorInv s
  width : WidthInv s
  history : HistoryInv s
  pending : PendingInv s
  session : SessionInv s

end Sys2Proof.Machine
end

