-- ==== Sys2Proof/Certificates/Slice0/Obligations.lean ====
section
/-! DEFINITION. The statements for the provers, each from a numbered rule of spec/ or, where its docstring says so, from a
choice of the model. OBLIGATIONS.json lists them in the same order. -/

open Sys2Proof Sys2Proof.Machine

/-! ### Encoding -/

/-- R141: the opcode in bits 7:0 selects the command, whatever the other 56 bits are, and no other opcode selects one. -/
def Obligations.CommandWordDecodesByOpcode : Prop :=
  ∀ (v : Word) (i : Instr), decode v = .ok i ↔
    (v.toNat % 256, i) ∈
      [(0x01, Instr.init), (0x02, .read), (0x03, .writeChunk), (0x04, .write), (0x05, .eraseSingleBlock),
        (0x06, .erase), (0x07, .getDevices), (0x08, .eraseBlockRetry), (0x10, .getBlockSize), (0x11, .fvbRead),
        (0x12, .fvbWrite), (0x13, .eraseBlocks), (0x14, .getAttributes), (0x15, .setAttributes),
        (0x16, .getPhysicalAddress), (0x20, .relocate)]

/-- R143: a reserved opcode written to CMD is stored in CMD and raises F_ILLEGAL_OP, in every lifecycle state and on a
halted block too; on a busy block F_BUSY comes first, and a faulted block ignores the write (R351). The
register bank lies inside the address space, as on every well-formed platform. -/
def Obligations.ReservedOpcodeFaults : Prop :=
  ∀ (s : State) (v : Word), s.platform.BankOk →
    (v.toNat % 256 = 0x00 ∨ (0x09 ≤ v.toNat % 256 ∧ v.toNat % 256 ≤ 0x0F) ∨
      (0x17 ≤ v.toNat % 256 ∧ v.toNat % 256 ≤ 0x1F) ∨ 0x21 ≤ v.toNat % 256) →
    move (.hostWrite (s.platform.blockBase + 0x000) 8 v) s =
      .next
        (if s.fault then s
          else if s.busy then hostFaultEnd .busy (midSequence s.seq) s
          else
            { s with
              cmd := wordOf (v.toNat % 256), fault := true, faultReason := .illegalOp, busy := false, seq := .idle })

/-- R162: on an idle block, the host writes that encode a program line, run as steps, put its operands into the ARG
registers in order and then run its command: no operand bit is lost and no other register changes on the way. -/
def Obligations.ProgramLineLoadsOperandsThenRuns : Prop :=
  ∀ (s : State) (l : Line) (ds : List Draw) (rest : List Input), s.platform.WF → l.WF s.platform → s.fault = false →
    s.busy = false → s.inputs = lineInputs s.platform l ds ++ rest →
    Sys2Proof.core.run (l.operands.length + 1) s =
      exec l.instr (loadArgs l.operands { s with inputs := .awaitIdle ds :: rest })

/-- R140, R351: a host write of a command word to CMD, as one step, is exec of the decoded command; so is the step of a
placed command word. The script of inputs, from which the step takes the write, is the model's (assumption logs 3, 20). -/
def Obligations.StepRunsDecodedCommand : Prop :=
  (∀ (s : State) (v : Word) (i : Instr) (rest : List Input), s.platform.WF → decode v = .ok i →
    s.inputs = .hostWrite (s.platform.blockBase + 0x000) 8 v :: rest → step s = exec i { s with inputs := rest }) ∧
  (∀ (s : State) (nbits w : Nat) (i : Instr), s.platform.WF → decodeTableWord nbits w = some i →
    step (s.withFetchWord nbits w) = exec i s)

/-- R141, R143, bit by bit: a few command words and what they stand for. -/
def Obligations.WrittenOutWordsDecode : Prop :=
  decode 0b0000000000000000000000000000000000000000000000000000000000000001#64 = .ok .init ∧
  decode 0b1111111111111111111111111111111111111111111111111111111100000010#64 = .ok .read ∧
  decode 0b0000000000000000000000000000000000000000000000000000000000001000#64 = .ok .eraseBlockRetry ∧
  decode 0b1000000000000000000000000000000000000000000000000000000000010011#64 = .ok .eraseBlocks ∧
  decode 0b0000000000000000000000000000000000000000000000000000000100100000#64 = .ok .relocate ∧
  decode 0b0000000000000000000000000000000000000000000000000000000100000000#64 = .error (.reservedOpcode 0x00)

/-! ### Register accesses -/

/-- R136: a read of a register, at the offset of R131, returns its content and changes nothing (`readData` is what the
host got, the model's own field), in every state whose register bank lies inside the address space. -/
def Obligations.RegisterReadHasNoSideEffect : Prop :=
  ∀ (s : State) (offset : Nat) (v : Word), s.platform.BankOk →
    (offset, v) ∈
      [(0x000, s.cmd), (0x008, s.arg0), (0x010, s.arg1), (0x018, s.arg2), (0x020, s.arg3), (0x028, statusWord s),
        (0x030, s.result0), (0x038, s.result1), (0x040, s.retryCount), (0x048, s.opcount), (0x050, s.cmdset),
        (0x058, s.ctrlBase), (0x060, s.devBase), (0x068, s.regionBase), (0x070, s.regionSize), (0x078, s.blockSize),
        (0x080, s.tagLo), (0x088, s.tagHi), (0x090, s.totalBlocks), (0x098, wordOf s.attr.toNat)] →
    move (.hostRead (s.platform.blockBase + offset) 8) s = .next { s with readData := v }

/-- R147 and R33, with the codes of R145, R146 and R148: the STATUS word and its bits. -/
def Obligations.StatusWordHoldsItsFields : Prop :=
  (∀ s : State,
    (statusWord s).toNat = s.busy.toNat + 2 * lstateCode s.lstate + 8 * s.halted.toNat + 16 * s.fault.toNat +
      256 * statusCode s.resultCode + 65536 * faultCode s.faultReason ∧
    (statusWord s).getLsbD 0 = s.busy ∧ (statusWord s).extractLsb' 1 2 = BitVec.ofNat 2 (lstateCode s.lstate) ∧
    (statusWord s).getLsbD 3 = s.halted ∧ (statusWord s).getLsbD 4 = s.fault ∧ (statusWord s).extractLsb' 5 3 = 0 ∧
    (statusWord s).extractLsb' 8 8 = BitVec.ofNat 8 (statusCode s.resultCode) ∧
    (statusWord s).extractLsb' 16 8 = BitVec.ofNat 8 (faultCode s.faultReason) ∧
    (statusWord s).extractLsb' 24 40 = 0) ∧
  [LState.uninit, .ready, .relocated].map lstateCode = [0, 1, 2] ∧
  [Status.success, .invalidParameter, .deviceError, .outOfResources, .configMissing, .unrecoverable].map statusCode =
    [0x00, 0x01, 0x02, 0x03, 0x04, 0x05] ∧
  [FaultReason.noFault, .hostAccess, .busy, .illegalOp, .notReady, .reinit, .relocate, .overflow, .window,
    .hostMem].map faultCode = [0x00, 0x01, 0x02, 0x03, 0x04, 0x05, 0x06, 0x07, 0x08, 0x09]

/-- R132, R360: a host access that is not 8 bytes wide at a listed offset raises F_HOST_ACCESS and stops a running
command; a faulted block ignores it and a read returns 0. What a read that faults returns is otherwise a free value
(assumption log 15), of which nothing is said. At `2^W` and above there is no address (R10, R80), and an access there is
none to the block: that the model stops is its own choice (assumption log 25). -/
def Obligations.WrongHostAccessFaults : Prop :=
  (∀ (s : State) (offset width : Nat), s.platform.blockBase + offset < s.platform.limit →
    (width ≠ 8 ∨ offset % 8 ≠ 0 ∨ 0x0A0 ≤ offset) →
    (∀ v : Word, move (.hostWrite (s.platform.blockBase + offset) width v) s =
      .next (if s.fault then s else hostFaultEnd .hostAccess (midSequence s.seq) s)) ∧
    ∃ t x, move (.hostRead (s.platform.blockBase + offset) width) s = .next t ∧
      t = { (if s.fault then s else hostFaultEnd .hostAccess (midSequence s.seq) s) with
        readData := x, draws := t.draws } ∧
      (s.fault = true → x = 0)) ∧
  (∀ (s : State) (addr width : Nat), s.platform.limit ≤ addr →
    (∀ v : Word, move (.hostWrite addr width v) s = .fault (.noSuchAddress addr)) ∧
    move (.hostRead addr width) s = .fault (.noSuchAddress addr))

/-- R134: a write to an ARG register stores the value (its low `W` bits, R132) on an idle block, raises F_BUSY on a busy
one, and is ignored by a faulted one, in every state whose register bank lies inside the address space. -/
def Obligations.ArgumentWriteStoresOrFaults : Prop :=
  ∀ (s t : State) (offset : Nat) (v : Word), s.platform.BankOk →
    (offset, t) ∈
      [(0x008, { s with arg0 := s.platform.width.trunc v }), (0x010, { s with arg1 := s.platform.width.trunc v }),
        (0x018, { s with arg2 := s.platform.width.trunc v }), (0x020, { s with arg3 := s.platform.width.trunc v })] →
    move (.hostWrite (s.platform.blockBase + offset) 8 v) s =
      .next (if s.fault then s else if s.busy then hostFaultEnd .busy (midSequence s.seq) s else t)

/-- R133: a write to a read-only register changes nothing, in every state whose register bank lies inside the address
space. -/
def Obligations.ReadOnlyWriteIgnored : Prop :=
  ∀ (s : State) (offset : Nat) (v : Word), s.platform.BankOk → 0x028 ≤ offset → offset ≤ 0x098 → offset % 8 = 0 →
    move (.hostWrite (s.platform.blockBase + offset) 8 v) s = .next s

/-- R352, R360, R100: on a busy block every command is refused with F_BUSY: the running command stops at once, and the chip
becomes undefined exactly if that command is past the first event of a sequence and not past its last. -/
def Obligations.CommandWhileBusyFaults : Prop :=
  ∀ (s : State) (i : Instr), s.platform.WF → s.fault = false → s.busy = true →
    ∃ mid : Bool,
      (mid = true ↔ ∃ op k ses, s.seq = .active op k ses ∧
        k ∈ [Pos.ppLoad, .ppWe, .ppFetch, .ppData, .ppFlush, .ppClear, .esLoad, .esAddr, .esLatch]) ∧
      exec i s = .next (hostFaultEnd .busy mid s)

/-- R37, R360, R364: no move but a reset changes a register, the history or the sequencer of a faulted block, and a
command written to it is ignored whole. -/
def Obligations.FaultedBlockIsQuiescent : Prop :=
  ∀ s : State, s.fault = true →
    (∀ i : Instr, s.platform.WF → exec i s = .next s) ∧
    ∀ (e : Input) (t : State), StatusInv s → e.isReset = false → move e s = .next t →
      allRegs.map (readReg t) = allRegs.map (readReg s) ∧ t.history = s.history ∧ t.seq = s.seq

/-- R358: a halted block takes a defined opcode, sets OPCOUNT to 0 and RESULT_CODE to UNRECOVERABLE and does nothing else;
reads and ARG writes still work; only reset clears HALTED. -/
def Obligations.HaltedBlockAnswersUnrecoverable : Prop :=
  ∀ s : State, s.platform.WF → s.fault = false → s.busy = false → s.halted = true →
    (∀ i : Instr, exec i s = .next { s with cmd := encode i, opcount := 0, resultCode := .unrecoverable }) ∧
    (∀ v : Word, move (.hostWrite (s.platform.blockBase + 0x020) 8 v) s =
      .next { s with arg3 := s.platform.width.trunc v }) ∧
    move (.hostRead (s.platform.blockBase + 0x028) 8) s = .next { s with readData := statusWord s } ∧
    ∀ t : State, step s = .next t → resetNext s = false → t.halted = true

/-- R369: which command each lifecycle state accepts, and the fault of every other one. -/
def Obligations.LifecycleGatesCommands : Prop :=
  ∀ (i : Instr) (s : State), s.platform.WF → s.fault = false → s.busy = false → s.halted = false →
    ∃ t, exec i s = .next t ∧
      (t.fault = true ∧ t.faultReason = .notReady ↔ i ≠ .init ∧ s.lstate = .uninit) ∧
      (t.fault = true ∧ t.faultReason = .reinit ↔ i = .init ∧ s.lstate ≠ .uninit) ∧
      (t.fault = true ∧ t.faultReason = .relocate ↔ i = .relocate ∧ s.lstate = .relocated) ∧
      (t.faultReason ∈ [FaultReason.notReady, .reinit, .relocate] → t.fault = true →
        t = { s with cmd := encode i, fault := true, faultReason := t.faultReason, busy := false, seq := .idle })

/-! ### Commands without micro-steps -/

/-- R203: a successful INIT loads the command set, the bases, the descriptor, TOTAL_BLOCKS and ATTR and moves to READY. -/
def Obligations.InitLoadsConfiguration : Prop :=
  ∀ s : State, Accepting .init s → s.platform.cfg.present = true → s.platform.cfg.capabilityPresent = true →
    s.platform.cfg.resourcesOk = true →
    exec .init s = .next
      { ended .init .success 0 s with
        cmdset := wordOf (65536 * s.platform.cfg.ppOp.toNat + 256 * s.platform.cfg.eraseOp.toNat +
          s.platform.cfg.writeOp.toNat)
        ctrlBase := s.platform.cfg.ctrlBase
        devBase := s.platform.cfg.devBase
        regionBase := s.platform.cfg.regionBase
        regionSize := s.platform.cfg.regionSize
        blockSize := s.platform.cfg.blockSize
        tagLo := wordOf (s.platform.cfg.tag.toNat % 2 ^ 64)
        tagHi := wordOf (s.platform.cfg.tag.toNat / 2 ^ 64)
        totalBlocks := wordOf (s.platform.cfg.regionSize.toNat / s.platform.cfg.blockSize.toNat)
        attr := s.platform.attrInit
        lstate := .ready }

/-- R202: the three checks of INIT in their order, each ending the command with its code and nothing loaded. -/
def Obligations.InitFailureChangesOnlyResultCode : Prop :=
  ∀ s : State, Accepting .init s →
    (s.platform.cfg.present = false → exec .init s = .next (ended .init .configMissing 0 s)) ∧
    (s.platform.cfg.present = true → s.platform.cfg.capabilityPresent = false →
      exec .init s = .next (ended .init .deviceError 0 s)) ∧
    (s.platform.cfg.present = true → s.platform.cfg.capabilityPresent = true → s.platform.cfg.resourcesOk = false →
      exec .init s = .next (ended .init .outOfResources 0 s))

/-- R284: GET_BLOCK_SIZE returns the block size and the blocks remaining, and fails for an LBA out of range with the result
registers unchanged. -/
def Obligations.GetBlockSizeReturnsSizeAndRemaining : Prop :=
  ∀ s : State, Accepting .getBlockSize s →
    (s.arg0.toNat < s.totalBlocks.toNat →
      exec .getBlockSize s = .next
        { ended .getBlockSize .success 0 s with
          result0 := s.blockSize, result1 := wordOf (s.totalBlocks.toNat - s.arg0.toNat) }) ∧
    (s.totalBlocks.toNat ≤ s.arg0.toNat →
      exec .getBlockSize s = .next (ended .getBlockSize .invalidParameter 0 s))

/-- R293, R294: GET_ATTRIBUTES returns ATTR; SET_ATTRIBUTES replaces it with bits 31:0 of its operand and returns that. -/
def Obligations.AttributesAreReturnedAndReplaced : Prop :=
  (∀ s : State, Accepting .getAttributes s →
    exec .getAttributes s = .next { ended .getAttributes .success 0 s with result0 := wordOf s.attr.toNat }) ∧
  (∀ s : State, Accepting .setAttributes s →
    exec .setAttributes s = .next
      { ended .setAttributes .success 0 s with
        attr := BitVec.ofNat 32 s.arg0.toNat, result0 := wordOf (s.arg0.toNat % 2 ^ 32) })

/-- R296: GET_PHYSICAL_ADDRESS returns the region base. -/
def Obligations.GetPhysicalAddressReturnsRegionBase : Prop :=
  ∀ s : State, Accepting .getPhysicalAddress s →
    exec .getPhysicalAddress s = .next { ended .getPhysicalAddress .success 0 s with result0 := s.regionBase }

/-- R330, R332: RELOCATE replaces CTRL_BASE and moves to RELOCATED if every port address fits, and changes nothing else;
otherwise it faults F_OVERFLOW. -/
def Obligations.RelocateReplacesControllerBase : Prop :=
  ∀ s : State, Accepting .relocate s →
    ((∀ p : Port, s.arg0.toNat + (s.platform.ports.at p).toNat < s.platform.limit) →
      exec .relocate s = .next { ended .relocate .success 0 s with ctrlBase := s.arg0, lstate := .relocated }) ∧
    ((∃ p : Port, s.platform.limit ≤ s.arg0.toNat + (s.platform.ports.at p).toNat) →
      exec .relocate s = .next (faultEnd .relocate .overflow s))

/-! ### Checks before the first micro-step -/

/-- R211, R217 and the first check of R225: WRITE_CHUNK refuses a length over 256 or not a multiple of 4 and a target
address that is not, WRITE a target address or length that is not a multiple of 4, ERASE a length that is no whole number
of erase units, each with no bus event. -/
def Obligations.WriteAndEraseParameterErrors : Prop :=
  (∀ s : State, Accepting .writeChunk s →
    (256 < s.arg2.toNat ∨ s.arg2.toNat % 4 ≠ 0 ∨ s.arg0.toNat % 4 ≠ 0) →
    exec .writeChunk s = .next (ended .writeChunk .invalidParameter 0 s)) ∧
  (∀ s : State, Accepting .write s → (s.arg0.toNat % 4 ≠ 0 ∨ s.arg2.toNat % 4 ≠ 0) →
    exec .write s = .next (ended .write .invalidParameter 0 s)) ∧
  (∀ s : State, Accepting .erase s → s.arg1.toNat % s.blockSize.toNat ≠ 0 →
    exec .erase s = .next (ended .erase .invalidParameter 0 s))

/-- R287 and the bound of R285, R286: FVB_READ and FVB_WRITE refuse an LBA out of range, then a range past the block's end;
FVB_WRITE also refuses a misaligned one. -/
def Obligations.FacadeRangeErrors : Prop :=
  (∀ s : State, Accepting .fvbRead s →
    (s.totalBlocks.toNat ≤ s.arg0.toNat ∨ s.blockSize.toNat < s.arg1.toNat + s.arg2.toNat) →
    exec .fvbRead s = .next (ended .fvbRead .invalidParameter 0 s)) ∧
  (∀ s : State, Accepting .fvbWrite s →
    (s.totalBlocks.toNat ≤ s.arg0.toNat ∨ s.blockSize.toNat < s.arg1.toNat + s.arg2.toNat ∨
      (s.regionBase.toNat + s.arg0.toNat * s.blockSize.toNat + s.arg1.toNat) % 4 ≠ 0 ∨ s.arg2.toNat % 4 ≠ 0) →
    exec .fvbWrite s = .next (ended .fvbWrite .invalidParameter 0 s))

/-- R353 for READ, WRITE_CHUNK and WRITE once their parameters are valid and their length is not 0: overflow before window
before host memory, with no effect but CMD, OPCOUNT and the fault record. -/
def Obligations.TransferChecksFaultInOrder : Prop :=
  ∀ (s : State) (i : Instr), i ∈ [Instr.read, .writeChunk, .write] → Accepting i s → s.arg2.toNat ≠ 0 →
    (i = .writeChunk → s.arg2.toNat ≤ 256) → (i ≠ .read → s.arg2.toNat % 4 = 0 ∧ s.arg0.toNat % 4 = 0) →
    ¬ TransferOk s s.arg0.toNat s.arg1.toNat s.arg2.toNat →
    exec i s = .next (faultEnd i
      (if s.platform.limit < s.arg0.toNat + s.arg2.toNat ∨ s.platform.limit < s.arg1.toNat + s.arg2.toNat then .overflow
        else if s.arg0.toNat < s.devBase.toNat ∨
          s.devBase.toNat + s.platform.flashSize < s.arg0.toNat + s.arg2.toNat then .window
        else .hostMem) s)

/-- R353 for the commands that check a host range and no window range: FVB_READ, FVB_WRITE, GET_DEVICES, and the first
list word of ERASE_BLOCKS: overflow before host memory. -/
def Obligations.HostRangeChecksFaultInOrder : Prop :=
  (∀ (s : State) (i : Instr), i ∈ [Instr.fvbRead, .fvbWrite] → Accepting i s →
    s.arg0.toNat < s.totalBlocks.toNat → s.arg1.toNat + s.arg2.toNat ≤ s.blockSize.toNat →
    (i = .fvbWrite → (s.regionBase.toNat + s.arg0.toNat * s.blockSize.toNat + s.arg1.toNat) % 4 = 0 ∧
      s.arg2.toNat % 4 = 0) →
    ¬ BufferOk s s.arg3.toNat s.arg2.toNat →
    exec i s = .next (faultEnd i
      (if s.platform.limit < s.arg3.toNat + s.arg2.toNat then .overflow else .hostMem) s)) ∧
  (∀ s : State, Accepting .getDevices s → ¬ BufferOk s s.arg0.toNat 48 →
    exec .getDevices s = .next (faultEnd .getDevices
      (if s.platform.limit < s.arg0.toNat + 48 then .overflow else .hostMem) s)) ∧
  (∀ s : State, Accepting .eraseBlocks s → ¬ BufferOk s s.arg0.toNat s.platform.width.bytes →
    exec .eraseBlocks s = .next (faultEnd .eraseBlocks
      (if s.platform.limit < s.arg0.toNat + s.platform.width.bytes then .overflow else .hostMem) s))

/-- R223, R225, R261 with R91, R353: an erase address outside the window faults F_WINDOW; ERASE checks overflow first. -/
def Obligations.EraseChecksFaultInOrder : Prop :=
  (∀ (s : State) (i : Instr), i ∈ [Instr.eraseSingleBlock, .eraseBlockRetry] → Accepting i s →
    (s.arg0.toNat < s.devBase.toNat ∨ s.devBase.toNat + s.platform.flashSize ≤ s.arg0.toNat) →
    exec i s = .next (faultEnd i .window s)) ∧
  (∀ s : State, Accepting .erase s → s.arg1.toNat % s.blockSize.toNat = 0 → s.arg1.toNat / s.blockSize.toNat ≠ 0 →
    (s.platform.limit < s.arg0.toNat + s.arg1.toNat → exec .erase s = .next (faultEnd .erase .overflow s)) ∧
    (s.arg0.toNat + s.arg1.toNat ≤ s.platform.limit →
      (s.arg0.toNat < s.devBase.toNat ∨ s.devBase.toNat + s.platform.flashSize <
        s.arg0.toNat + (s.arg1.toNat / s.blockSize.toNat - 1) * s.blockSize.toNat + 1) →
      exec .erase s = .next (faultEnd .erase .window s)))

/-! ### Whole runs -/

/-- R204: READ, from its command write to its end. -/
def Obligations.ReadCopiesWindowBytes : Prop :=
  ∀ s : State, Accepting .read s → s.mem.wf = true → TransferOk s s.arg0.toNat s.arg1.toNat s.arg2.toNat →
    copyRun .read s.arg0.toNat s.arg1.toNat s.arg2.toNat s

/-- R285, R281: FVB_READ, from its command write to its end, at the translated address. -/
def Obligations.FvbReadCopiesBlockBytes : Prop :=
  ∀ s : State, Accepting .fvbRead s → s.mem.wf = true → s.arg0.toNat < s.totalBlocks.toNat →
    s.arg1.toNat + s.arg2.toNat ≤ s.blockSize.toNat → BufferOk s s.arg3.toNat s.arg2.toNat →
    copyRun .fvbRead (s.regionBase.toNat + s.arg0.toNat * s.blockSize.toNat + s.arg1.toNat) s.arg3.toNat s.arg2.toNat s

/-- R230, R159: GET_DEVICES writes the six fields of the 48-byte record, returns 1, and changes no other byte. -/
def Obligations.GetDevicesWritesDescriptor : Prop :=
  ∀ s : State, Accepting .getDevices s → s.mem.wf = true → BufferOk s s.arg0.toNat 48 →
    ∃ t, exec .getDevices s = .next t ∧ ∀ ds : List Draw, ds.length = 6 →
      ∃ m, runMicro ds t = { ended .getDevices .success 0 s with result0 := 1, mem := m } ∧ m.wf = true ∧
        [0, 8, 16, 24, 32, 40].map (fun o => readBytes m (s.arg0.toNat + o) 8) =
          [s.devBase, s.regionBase, s.regionSize, s.blockSize, s.tagLo, s.tagHi].map BitVec.toNat ∧
        ∀ x, x < s.arg0.toNat ∨ s.arg0.toNat + 48 ≤ x → readByte m x = readByte s.mem x

/-- R212, R210, R97: WRITE_CHUNK, from its command write to its end: one sequence, for a length of 0 too. -/
def Obligations.WriteChunkProgramsOneSequence : Prop :=
  ∀ s : State, Accepting .writeChunk s → canonicalFlash s.chip.flash = true → s.arg2.toNat ≤ 256 →
    s.arg2.toNat % 4 = 0 → s.arg0.toNat % 4 = 0 → TransferOk s s.arg0.toNat s.arg1.toNat s.arg2.toNat →
    programRun .writeChunk s.arg0.toNat s.arg1.toNat s.arg2.toNat [(0, s.arg2.toNat)] s

/-- R215, R214, R97: WRITE, from its command write to its end: full chunks of 256 bytes and a remainder. -/
def Obligations.WriteProgramsChunksInOrder : Prop :=
  ∀ s : State, Accepting .write s → canonicalFlash s.chip.flash = true → s.arg2.toNat % 4 = 0 →
    s.arg0.toNat % 4 = 0 → TransferOk s s.arg0.toNat s.arg1.toNat s.arg2.toNat →
    programRun .write s.arg0.toNat s.arg1.toNat s.arg2.toNat (chunkList s.arg2.toNat) s

/-- R286, R281: FVB_WRITE, from its command write to its end, at the translated address. The invariant rules out states
that no run reaches, in which the block lies outside the window. -/
def Obligations.FvbWriteProgramsBlockBytes : Prop :=
  ∀ s : State, Accepting .fvbWrite s → Inv s → s.arg0.toNat < s.totalBlocks.toNat →
    s.arg1.toNat + s.arg2.toNat ≤ s.blockSize.toNat →
    (s.regionBase.toNat + s.arg0.toNat * s.blockSize.toNat + s.arg1.toNat) % 4 = 0 → s.arg2.toNat % 4 = 0 →
    BufferOk s s.arg3.toNat s.arg2.toNat →
    programRun .fvbWrite (s.regionBase.toNat + s.arg0.toNat * s.blockSize.toNat + s.arg1.toNat) s.arg3.toNat
      s.arg2.toNat (chunkList s.arg2.toNat) s

/-- R97, the spec's round trip: bytes written to an erased range of a block with FVB_WRITE and read back with FVB_READ
return unchanged. -/
def Obligations.FvbWriteThenReadReturnsBytes : Prop :=
  ∀ (s : State) (buf2 : Word) (ds es : List Draw), Accepting .fvbWrite s → Inv s → undefOnceBegun s = false →
    s.arg0.toNat < s.totalBlocks.toNat → s.arg1.toNat + s.arg2.toNat ≤ s.blockSize.toNat →
    (s.regionBase.toNat + s.arg0.toNat * s.blockSize.toNat + s.arg1.toNat) % 4 = 0 → s.arg2.toNat % 4 = 0 →
    BufferOk s s.arg3.toNat s.arg2.toNat → BufferOk s buf2.toNat s.arg2.toNat →
    (∀ j, j < s.arg2.toNat →
      condAt s.chip.flash
        (s.regionBase.toNat + s.arg0.toNat * s.blockSize.toNat + s.arg1.toNat - s.devBase.toNat + j) = .erased) →
    ds.length = ((chunkList s.arg2.toNat).map fun c => 5 + 2 * (c.2 / 4)).sum → AllOk ds →
    es.length = 2 * s.arg2.toNat →
    ∃ t u, exec .fvbWrite s = .next t ∧ exec .fvbRead { runMicro ds t with arg3 := buf2 } = .next u ∧
      (runMicro es u).busy = false ∧ (runMicro es u).fault = false ∧ (runMicro es u).resultCode = .success ∧
      ∀ j, j < s.arg2.toNat → readByte (runMicro es u).mem (buf2.toNat + j) = readByte s.mem (s.arg3.toNat + j)

/-- R223, R222, R99 in IMMEDIATE mode: ERASE_SINGLE_BLOCK, from its command write to its end. -/
def Obligations.EraseSingleBlockErasesUnit : Prop :=
  ∀ s : State, Accepting .eraseSingleBlock s → canonicalFlash s.chip.flash = true →
    s.platform.eraseCompletion = .immediate → s.devBase.toNat ≤ s.arg0.toNat →
    s.arg0.toNat < s.devBase.toNat + s.platform.flashSize →
    eraseRun .eraseSingleBlock .success 0 [s.arg0.toNat] s

/-- R223, R104 in ASYNC mode, with no erase pending before: ERASE_SINGLE_BLOCK finishes with the unit in PENDING and its
bytes as they were. -/
def Obligations.AsyncEraseLeavesUnitPending : Prop :=
  ∀ s : State, Accepting .eraseSingleBlock s → s.platform.eraseCompletion = .async → s.chip.pending = [] →
    s.chip.undef = false → s.devBase.toNat ≤ s.arg0.toNat → s.arg0.toNat < s.devBase.toNat + s.platform.flashSize →
    ∃ t, exec .eraseSingleBlock s = .next t ∧ ∀ ds : List Draw, ds.length = 4 → AllOk ds →
      ∃ page, runMicro ds t =
        { ended .eraseSingleBlock .success 1 s with
          history := s.history ++ answeredOk s.history.length (eraseEvents s s.arg0.toNat)
          chip := { s.chip with
            pending :=
              [(s.arg0.toNat - s.platform.cfg.devBase.toNat) / s.platform.cfg.blockSize.toNat]
            page := page } }

/-- R225, R222, R99 in IMMEDIATE mode: ERASE, from its command write to its end: unit after unit from the offset. -/
def Obligations.EraseErasesUnitsInOrder : Prop :=
  ∀ s : State, Accepting .erase s → canonicalFlash s.chip.flash = true →
    s.platform.eraseCompletion = .immediate → s.arg1.toNat % s.blockSize.toNat = 0 →
    (s.arg1.toNat / s.blockSize.toNat = 0 ∨
      (s.arg0.toNat + s.arg1.toNat ≤ s.platform.limit ∧ s.devBase.toNat ≤ s.arg0.toNat ∧
        s.arg0.toNat + (s.arg1.toNat / s.blockSize.toNat - 1) * s.blockSize.toNat + 1 ≤
          s.devBase.toNat + s.platform.flashSize)) →
    eraseRun .erase .success 0
      ((List.range (s.arg1.toNat / s.blockSize.toNat)).map fun j => s.arg0.toNat + j * s.blockSize.toNat) s

/-- R288, R289, R290 in IMMEDIATE mode: ERASE_BLOCKS over any well-placed list, from its command write to its end: the
units of the valid pairs in order, the invalid pairs passed over, the first failure's code kept. That OPCOUNT keeps its
low `W` bits for a list of `2^W` units or more is the model's choice (assumption log 24). -/
def Obligations.EraseBlocksErasesValidPairs : Prop :=
  ∀ (s : State) (ps : List (Nat × Nat)), Accepting .eraseBlocks s → canonicalFlash s.chip.flash = true →
    s.platform.eraseCompletion = .immediate → ListAt s s.arg0.toNat ps →
    eraseRun .eraseBlocks (listStatus s ps) (2 * ps.length + 1) (ps.flatMap (pairUnits s)) s

/-- R261, R263, R265 in IMMEDIATE mode on a defined chip: ERASE_BLOCK_RETRY succeeds at its first attempt, with one poll. -/
def Obligations.EraseBlockRetrySucceedsAtOnce : Prop :=
  ∀ s : State, Accepting .eraseBlockRetry s → canonicalFlash s.chip.flash = true →
    s.platform.eraseCompletion = .immediate → s.chip.undef = false → s.devBase.toNat ≤ s.arg0.toNat →
    s.arg0.toNat < s.devBase.toNat + s.platform.flashSize →
    ∃ t, exec .eraseBlockRetry s = .next t ∧ ∀ ds : List Draw, ds.length = 5 → AllOk ds →
      ∃ f page, runMicro ds t =
          { ended .eraseBlockRetry .success 1 s with
            retryCount := 1
            history := s.history ++ answeredOk s.history.length (eraseEvents s s.arg0.toNat) ++
              [⟨s.history.length + 4, .poll, none, none, none, .polled false true⟩]
            chip := { s.chip with flash := f, page := page } } ∧
        canonicalFlash f = true ∧
        ∀ x, condAt f x = if InUnit s s.arg0.toNat x then .erased else condAt s.chip.flash x

/-- R262, R264, R265: if in each of ten attempts one of the four events is answered ERROR (`js` says how many are answered
OK before it), ERASE_BLOCK_RETRY gives up with DEVICE_ERROR, does not halt, and RETRY_COUNT and OPCOUNT read 10. -/
def Obligations.EraseBlockRetryGivesUpAfterTen : Prop :=
  ∀ (s : State) (js : List Nat) (good bad : Draw), Accepting .eraseBlockRetry s → s.devBase.toNat ≤ s.arg0.toNat →
    s.arg0.toNat < s.devBase.toNat + s.platform.flashSize → js.length = 10 → (∀ j ∈ js, j < 4) → good.ok = true →
    bad.ok = false →
    ∃ t, exec .eraseBlockRetry s = .next t ∧
      ∃ chip history, runMicro (js.flatMap fun j => List.replicate j good ++ [bad]) t =
          { ended .eraseBlockRetry .deviceError 10 s with retryCount := 10, chip := chip, history := history } ∧
        chip.undef = true ∧ chip.flash = s.chip.flash ∧
        history.length = s.history.length + (js.map (· + 1)).sum

/-- R266, R104, R261's example: in ASYNC mode an attempt whose erase completes with FAILURE is followed by another; when
that one completes with SUCCESS the command succeeds, two attempts counted, and the unit is ERASED. That RETRY_COUNT is
2 already after the first POLL, before the second attempt's first event, is the model's choice (assumption log 10). -/
def Obligations.RetryAfterFailedCompletion : Prop :=
  ∀ (s : State) (ds es : List Draw) (d e : Draw), Accepting .eraseBlockRetry s → canonicalFlash s.chip.flash = true →
    s.platform.eraseCompletion = .async → s.chip.pending = [] → s.chip.undef = false →
    s.devBase.toNat ≤ s.arg0.toNat → s.arg0.toNat < s.devBase.toNat + s.platform.flashSize → ds.length = 4 →
    AllOk ds → es.length = 4 → AllOk es →
    let k := (s.arg0.toNat - s.platform.cfg.devBase.toNat) / s.platform.cfg.blockSize.toNat
    ∃ t, exec .eraseBlockRetry s = .next t ∧
      let u := microStep d (chipComplete k false (runMicro ds t))
      let v := microStep e (chipComplete k true (runMicro es u))
      u.busy = true ∧ u.retryCount = 2 ∧ u.chip.lastOk = false ∧ (∀ x, InUnit s s.arg0.toNat x → condAt u.chip.flash x = .undefined) ∧
      ∃ f page, v =
          { ended .eraseBlockRetry .success 2 s with
            retryCount := 2
            history := s.history ++ answeredOk s.history.length (eraseEvents s s.arg0.toNat) ++
              [⟨s.history.length + 4, .poll, none, none, none, .polled false false⟩] ++
              answeredOk (s.history.length + 5) (eraseEvents s s.arg0.toNat) ++
              [⟨s.history.length + 9, .poll, none, none, none, .polled false true⟩]
            chip := { s.chip with flash := f, lastOk := true, page := page } } ∧
        ∀ x, condAt f x = if InUnit s s.arg0.toNat x then .erased else condAt s.chip.flash x

/-! ### Micro-steps and bus events -/

/-- R21: steps that take the sequencer's moves from the script are its micro-steps, one a step. The script is the model's
(assumption log 3). -/
def Obligations.SequencerStepsAreMicroSteps : Prop :=
  ∀ (s : State) (ds : List Draw) (rest : List Input), s.platform.WF → s.inputs = ds.map Input.sequencer ++ rest →
    Sys2Proof.core.run ds.length s = .next (runMicro ds { s with inputs := rest })

/-- R150, R151, R155, R156: what each micro-step appends to the history: the event's opcode from CMDSET, its value, its port
address from CTRL_BASE as it is when the event is emitted, its number and its answer. Micro-steps that are no bus call
append nothing. -/
def Obligations.MicroStepEmitsItsEvent : Prop :=
  ∀ (s : State) (op : Instr) (k : Pos) (ses : Session) (d : Draw), s.seq = .active op k ses →
    let n := s.history.length
    let pp := some (wordOf (s.cmdset.toNat / 65536 % 256))
    let er := some (wordOf (s.cmdset.toNat / 256 % 256))
    let p := s.platform
    let at_ := fun (o : Word) => some (s.ctrlBase.toNat + o.toNat)
    let a := if d.ok then Answer.ok else Answer.error
    (microStep d s).history = s.history ++
      (match k with
      | .ppCmd | .esCmd => [⟨n, .cfgCmd, pp, some p.ctrlFixed, at_ p.ports.command, a⟩]
      | .ppLoad | .esLoad => [⟨n, .cfgLoad, pp, some p.loadValue, at_ p.ports.load, a⟩]
      | .ppWe => [⟨n, .cfgWcfg, some p.regWcfg, some p.weValue, at_ p.ports.writeConfig, a⟩]
      | .ppData =>
        [⟨n, .data, none, some (wordOf (ses.datum.toNat % 2 ^ 32)), some (ses.addr + 4 * ses.idx), .ok⟩]
      | .ppFlush => [⟨n, .cfgFlush, some p.regFlush, some p.flushValue, at_ p.ports.flush, a⟩]
      | .ppClear => [⟨n, .cfgWcfg, some p.regWcfg, some p.weClearValue, at_ p.ports.writeConfig, a⟩]
      | .esAddr => [⟨n, .cfgAddr, er, some (wordOf ses.addr), at_ p.ports.address, a⟩]
      | .esLatch => [⟨n, .cfgLoad, er, some p.loadValue, at_ p.ports.load, a⟩]
      | .poll =>
        [⟨n, .poll, none, none, none,
          .polled (pollAnswer p s.chip d).1 (pollAnswer p s.chip d).2⟩]
      | .winRead | .memWrite | .ppFetch | .listLba | .listNum | .record => [])

/-- R100, R210, R222 with R212, R223, R216, R226, R291, R262: an ERROR answer makes the chip undefined and ends the
sequence: WRITE_CHUNK and ERASE_SINGLE_BLOCK with DEVICE_ERROR, WRITE, FVB_WRITE, ERASE and ERASE_BLOCKS by halting the
block whatever the list's first error was, ERASE_BLOCK_RETRY with its next attempt or, after the tenth, DEVICE_ERROR. No
byte of the array or of host memory changes. That RETRY_COUNT takes the next attempt's number in the step of the ERROR
answer, before that attempt's first event, is the model's choice (assumption log 10). -/
def Obligations.ErrorAnswerEndsTheSequence : Prop :=
  ∀ (s : State) (op : Instr) (k : Pos) (ses : Session) (d : Draw), s.seq = .active op k ses → d.ok = false →
    (k ∈ [Pos.ppCmd, .ppLoad, .ppWe, .ppFlush, .ppClear] ∧ op ∈ [Instr.writeChunk, .write, .fvbWrite] ∨
      k ∈ [Pos.esCmd, .esLoad, .esAddr, .esLatch] ∧
        op ∈ [Instr.eraseSingleBlock, .erase, .eraseBlocks, .eraseBlockRetry]) →
    let t := microStep d s
    t.chip.undef = true ∧ t.chip.flash = s.chip.flash ∧ t.chip.pending = s.chip.pending ∧ t.mem = s.mem ∧
    t.fault = s.fault ∧ t.result0 = s.result0 ∧ t.result1 = s.result1 ∧
    (op = .writeChunk ∨ op = .eraseSingleBlock ∨ (op = .eraseBlockRetry ∧ 10 ≤ ses.attempt) →
      t.seq = .idle ∧ t.busy = false ∧ t.resultCode = .deviceError ∧ t.halted = s.halted ∧
      t.retryCount = s.retryCount) ∧
    (op ∈ [Instr.write, .fvbWrite, .erase, .eraseBlocks] →
      t.seq = .idle ∧ t.busy = false ∧ t.resultCode = .unrecoverable ∧ t.halted = true ∧
      t.retryCount = s.retryCount) ∧
    (op = .eraseBlockRetry ∧ ses.attempt < 10 →
      t.seq = .active .eraseBlockRetry .esCmd { ses with attempt := ses.attempt + 1, idx := 0 } ∧ t.busy = s.busy ∧
      t.resultCode = s.resultCode ∧ t.halted = s.halted ∧ t.retryCount = wordOf (ses.attempt + 1))

/-- R84, R97, R99, R103, R104, R204, R230: what a micro-step changes, and that it changes nothing else, wherever the other
agents have moved before it. Host memory: the byte at the session's buffer cursor at the store of a copied byte, the 8
bytes of the record's field at the store of a field, no byte otherwise. The array: at a FLUSH answered OK only the four
bytes of each data store of the page, counted from the window's base; at an erase latch answered OK only the unit of the
session's address, and none of it in ASYNC mode on a defined chip; no byte otherwise. PENDING: only that unit, only
there. The registers: OPCOUNT only at the first event of a sequence, RETRY_COUNT only in ERASE_BLOCK_RETRY, RESULT0 only
in GET_DEVICES, RESULT_CODE, HALTED and RESULT0 only where the command ends, FAULT only in ERASE_BLOCKS; the other
registers never. (In a state that no run reaches another command may stand at a position of ERASE_BLOCK_RETRY, of
GET_DEVICES or of the list: the clauses name the position too.) An idle block has no micro-step. -/
def Obligations.MicroStepFrame : Prop :=
  (∀ (s : State) (d : Draw), s.seq = .idle → microStep d s = s) ∧
  ∀ (s : State) (op : Instr) (k : Pos) (ses : Session) (d : Draw), s.seq = .active op k ses → s.mem.wf = true →
    canonicalFlash s.chip.flash = true →
    let t := microStep d s
    let field := ses.buf + fieldBytes * ses.idx
    let unit := unitOf s.platform ses.addr
    let size := s.platform.cfg.blockSize.toNat
    (k = .memWrite → ∀ x, readByte t.mem x =
      if x = ses.buf then BitVec.ofNat 8 ses.datum.toNat else readByte s.mem x) ∧
    (k = .record → ∀ x, readByte t.mem x =
      if field ≤ x ∧ x < field + fieldBytes then
        BitVec.ofNat 8 ((descriptorField s ses.idx).toNat / 256 ^ (x - field))
      else readByte s.mem x) ∧
    (k ≠ .memWrite → k ≠ .record → t.mem = s.mem) ∧
    (k = .ppFlush → d.ok = true → ∀ x,
      (∀ e ∈ s.chip.page, x < e.1 - s.devBase.toNat ∨ e.1 - s.devBase.toNat + wordBytes ≤ x) →
      condAt t.chip.flash x = condAt s.chip.flash x) ∧
    (k = .esLatch → d.ok = true →
      (∀ x, (x < unit * size ∨ (unit + 1) * size ≤ x) → condAt t.chip.flash x = condAt s.chip.flash x) ∧
      (s.platform.eraseCompletion = .async → s.chip.undef = false → t.chip.flash = s.chip.flash) ∧
      (∀ u, u ≠ unit → (u ∈ t.chip.pending ↔ u ∈ s.chip.pending)) ∧
      (s.platform.eraseCompletion = .immediate → t.chip.pending = s.chip.pending)) ∧
    (k ≠ .ppFlush ∧ k ≠ .esLatch ∨ d.ok = false → t.chip.flash = s.chip.flash) ∧
    (k ≠ .esLatch ∨ d.ok = false → t.chip.pending = s.chip.pending) ∧ t.chip.lastOk = s.chip.lastOk ∧
    (k ≠ .ppCmd → k ≠ .esCmd → t.opcount = s.opcount) ∧
    (op ≠ .eraseBlockRetry → k ≠ .poll → t.retryCount = s.retryCount) ∧
    (k ≠ .record → t.result0 = s.result0) ∧ t.result1 = s.result1 ∧
    (t.seq ≠ .idle → t.resultCode = s.resultCode ∧ t.halted = s.halted ∧ t.result0 = s.result0) ∧
    (t.fault ≠ s.fault ∨ t.faultReason ≠ s.faultReason →
      t.seq = .idle ∧ (op = .eraseBlocks ∨ k = .listLba ∨ k = .listNum)) ∧
    t.cmd = s.cmd ∧ t.arg0 = s.arg0 ∧ t.arg1 = s.arg1 ∧ t.arg2 = s.arg2 ∧ t.arg3 = s.arg3 ∧ t.lstate = s.lstate ∧
    t.cmdset = s.cmdset ∧ t.ctrlBase = s.ctrlBase ∧ t.devBase = s.devBase ∧ t.regionBase = s.regionBase ∧
    t.regionSize = s.regionSize ∧ t.blockSize = s.blockSize ∧ t.tagLo = s.tagLo ∧ t.tagHi = s.tagHi ∧
    t.totalBlocks = s.totalBlocks ∧ t.attr = s.attr ∧ t.platform = s.platform ∧ t.inputs = s.inputs ∧
    t.draws = s.draws ∧ t.readData = s.readData

/-- R351, R21, R353: the step of a command write emits no event, changes no byte of the array or of host memory, no ARG
register and not RETRY_COUNT but for ERASE_BLOCK_RETRY (for which it may change in this step by assumption log 10, the
model's choice), whichever command it is and however it goes. -/
def Obligations.CommandWriteFrame : Prop :=
  ∀ (i : Instr) (s t : State), exec i s = .next t →
    t.history = s.history ∧ t.mem = s.mem ∧ t.chip.flash = s.chip.flash ∧ t.chip.pending = s.chip.pending ∧
    t.chip.lastOk = s.chip.lastOk ∧ t.arg0 = s.arg0 ∧ t.arg1 = s.arg1 ∧ t.arg2 = s.arg2 ∧ t.arg3 = s.arg3 ∧
    t.halted = s.halted ∧ t.platform = s.platform ∧ t.inputs = s.inputs ∧ t.readData = s.readData ∧
    (i ≠ .eraseBlockRetry → t.retryCount = s.retryCount) ∧ (i ≠ .init ∧ i ≠ .setAttributes → t.attr = s.attr) ∧
    (i ≠ .init → t.cmdset = s.cmdset ∧ t.devBase = s.devBase ∧ t.regionBase = s.regionBase ∧
      t.regionSize = s.regionSize ∧ t.blockSize = s.blockSize ∧ t.tagLo = s.tagLo ∧ t.tagHi = s.tagHi ∧
      t.totalBlocks = s.totalBlocks) ∧
    (i ≠ .init ∧ i ≠ .relocate → t.ctrlBase = s.ctrlBase ∧ t.lstate = s.lstate)

/-- R262, R263: what the erase-retry controller does after a POLL: wait on while busy and below POLL_LIMIT, finish SUCCESS,
or fail the attempt; a failed attempt is followed at once by the next or, after the tenth, by DEVICE_ERROR. That
RETRY_COUNT takes the next attempt's number in the step of the POLL, before that attempt's first event, is the model's
choice (assumption log 10). -/
def Obligations.PollDecidesTheAttempt : Prop :=
  ∀ (s : State) (ses : Session) (d : Draw), s.seq = .active .eraseBlockRetry .poll ses →
    let a := pollAnswer s.platform s.chip d
    let t := microStep d s
    (a.1 = true ∧ s.platform.pollLimit ≠ some (ses.idx + 1) →
      t.seq = .active .eraseBlockRetry .poll { ses with idx := ses.idx + 1 } ∧ t.retryCount = s.retryCount) ∧
    (a.1 = false ∧ a.2 = true → t.seq = .idle ∧ t.busy = false ∧ t.resultCode = .success ∧
      t.retryCount = s.retryCount) ∧
    ((a.1 = true ∧ s.platform.pollLimit = some (ses.idx + 1)) ∨ (a.1 = false ∧ a.2 = false) →
      (ses.attempt < 10 →
        t.seq = .active .eraseBlockRetry .esCmd { ses with attempt := ses.attempt + 1, idx := 0 } ∧
        t.retryCount = wordOf (ses.attempt + 1)) ∧
      (10 ≤ ses.attempt → t.seq = .idle ∧ t.busy = false ∧ t.resultCode = .deviceError ∧
        t.retryCount = s.retryCount))

/-! ### The flash chip -/

/-- R90: `WinRead`, its five cases in order, with `b` for the draw. -/
def Obligations.WindowReadCases : Prop :=
  ∀ (p : Platform) (c : Chip) (x : Nat) (b : Byte),
    (c.undef = true → windowByte p c x b = b) ∧
    (c.undef = false → p.eraseCompletion = .async → c.pending ≠ [] → windowByte p c x b = b) ∧
    (c.undef = false → (p.eraseCompletion = .async → c.pending = []) →
      (condAt c.flash x = .erased → windowByte p c x b = 0xFF) ∧
      (∀ v, condAt c.flash x = .programmed v → windowByte p c x b = v) ∧
      (condAt c.flash x = .undefined → windowByte p c x b = b))

/-- R94, R114, R404: a host read of a window byte: a draw while a command runs, otherwise what `WinRead` gives, nothing
changed. That a block before INIT gives a draw is the model's choice (assumption log 23), and not stated here. -/
def Obligations.HostWindowReadSeesTheChip : Prop :=
  ∀ (s : State) (a : Nat) (d : Draw), a < s.platform.limit → s.lstate ≠ .uninit → s.devBase.toNat ≤ a →
    a < s.devBase.toNat + s.platform.flashSize →
    move (.hostWindowRead a d) s = .next
      { s with
        readData :=
          wordOf (if s.busy then d.byte else windowByte s.platform s.chip (a - s.devBase.toNat) d.byte).toNat }

/-- R107: the answer of a POLL, and that a POLL never makes the chip undefined. -/
def Obligations.PollAnswerCases : Prop :=
  ∀ (s : State) (op : Instr) (ses : Session) (d : Draw), s.seq = .active op .poll ses →
    (microStep d s).chip = s.chip ∧
    (s.chip.undef = true → pollAnswer s.platform s.chip d = (d.pollBusy, d.pollOk)) ∧
    (s.chip.undef = false → s.platform.eraseCompletion = .immediate →
      pollAnswer s.platform s.chip d = (false, true)) ∧
    (s.chip.undef = false → s.platform.eraseCompletion = .async →
      pollAnswer s.platform s.chip d = (decide (s.chip.pending ≠ []), s.chip.lastOk))

/-- R106: in ASYNC mode the first event of a sequence emitted while an erase is pending makes the chip undefined; with
none pending, or in IMMEDIATE mode, an event answered OK leaves it as it was. -/
def Obligations.SequenceDuringPendingEraseUndefinesChip : Prop :=
  ∀ (s : State) (op : Instr) (k : Pos) (ses : Session) (d : Draw), s.seq = .active op k ses →
    k = .ppCmd ∨ k = .esCmd → d.ok = true →
    (s.platform.eraseCompletion = .async → s.chip.pending ≠ [] → (microStep d s).chip.undef = true) ∧
    (s.platform.eraseCompletion = .immediate ∨ s.chip.pending = [] →
      (microStep d s).chip.undef = s.chip.undef)

/-- R104, R101: the chip step COMPLETE of a pending unit; it is the chip's, so it changes nothing but the chip. A COMPLETE
of a unit that is not pending is no step of the chip: the model leaves the state as it is (assumption log 3). -/
def Obligations.CompleteErasesOrUndefinesUnit : Prop :=
  ∀ (s : State) (k : Nat) (success : Bool), canonicalFlash s.chip.flash = true → k ∈ s.chip.pending →
    ∃ f, move (.complete k success) s = .next
        { s with chip := { s.chip with
            flash := f, pending := s.chip.pending.filter (· ≠ k), lastOk := success } } ∧
      canonicalFlash f = true ∧
      ∀ x, condAt f x =
        if k * s.platform.cfg.blockSize.toNat ≤ x ∧ x < (k + 1) * s.platform.cfg.blockSize.toNat then
          (if success = true ∧ s.chip.undef = false then .erased else .undefined)
        else condAt s.chip.flash x

/-! ### Reset -/

/-- R58, R96, R103: every register after reset; the chip's flags; the history empty. What the spec gives no value for
(the platform, the array, host memory, the model's own fields) is not stated. -/
def Obligations.ResetStateHoldsResetValues : Prop :=
  allRegs.map (readReg State.reset) = List.replicate 20 0 ∧ State.reset.lstate = .uninit ∧
  State.reset.busy = false ∧ State.reset.halted = false ∧ State.reset.fault = false ∧
  State.reset.resultCode = .success ∧ State.reset.faultReason = .noFault ∧ State.reset.seq = .idle ∧
  State.reset.chip.undef = false ∧ State.reset.chip.pending = [] ∧ State.reset.chip.lastOk = true ∧
  State.reset.history = []

/-- R390, R392, R393: a block reset in any state: every register at its reset value, the command stopped, the history
empty, the chip undefined if a sequence was cut off; host memory, the array, PENDING, LAST_OK and the parameters kept. -/
def Obligations.BlockResetClearsTheBlock : Prop :=
  ∀ s : State, ∃ t, move .blockReset s = .next t ∧
    allRegs.map (readReg t) = List.replicate 20 0 ∧ t.seq = .idle ∧ t.history = [] ∧ t.mem = s.mem ∧
    t.platform = s.platform ∧ t.chip.flash = s.chip.flash ∧ t.chip.pending = s.chip.pending ∧
    t.chip.lastOk = s.chip.lastOk ∧
    (t.chip.undef = true ↔ s.chip.undef = true ∨ ∃ op k ses, s.seq = .active op k ses ∧
      k ∈ [Pos.ppLoad, .ppWe, .ppFetch, .ppData, .ppFlush, .ppClear, .esLoad, .esAddr, .esLatch])

/-- R394, R109: a power cycle of an idle block: the reset values, PENDING empty and its units UNDEFINED, or the whole array
if the chip was undefined; every other byte kept. Host memory afterwards is whatever the move brings, which the spec
leaves open (assumption log 16). -/
def Obligations.PowerCycleUndefinesPendingUnits : Prop :=
  ∀ (s : State) (cells : List Host.Cell), s.seq = .idle → canonicalFlash s.chip.flash = true →
    ∃ t, move (.powerCycle cells) s = .next t ∧
      allRegs.map (readReg t) = List.replicate 20 0 ∧ t.seq = .idle ∧ t.history = [] ∧
      t.chip.undef = false ∧ t.chip.pending = [] ∧ t.chip.lastOk = true ∧
      ∀ x, x < s.platform.flashSize → condAt t.chip.flash x =
        if s.chip.undef = true ∨ ∃ k ∈ s.chip.pending,
            k * s.platform.cfg.blockSize.toNat ≤ x ∧ x < (k + 1) * s.platform.cfg.blockSize.toNat then .undefined
        else condAt s.chip.flash x

/-! ### The whole machine -/

/-- R336: every change of LSTATE in one step. -/
def Obligations.LifecycleTransitions : Prop :=
  ∀ s t : State, step s = .next t →
    (resetNext s = true → t.lstate = .uninit) ∧
    (resetNext s = false → t.lstate ≠ s.lstate →
      (s.lstate = .uninit ∧ t.lstate = .ready ∧ commandNext .init s ∧ t.resultCode = .success ∧ t.busy = false) ∨
      (s.lstate = .ready ∧ t.lstate = .relocated ∧ commandNext .relocate s ∧ t.resultCode = .success ∧
        t.busy = false))

/-- R36, R37, R390: no step but a reset clears FAULT or HALTED, and none changes the recorded reason. -/
def Obligations.OnlyResetClearsFaultAndHalt : Prop :=
  ∀ s t : State, StatusInv s → step s = .next t → resetNext s = false →
    (s.fault = true → t.fault = true ∧ t.faultReason = s.faultReason) ∧ (s.halted = true → t.halted = true)

/-- R30 (the column "written by"), R38, R40, R41, R44, R53: what must happen in a step for each register to change, resets
apart. The invariant rules out states in which another command stands at a position of ERASE_BLOCK_RETRY. -/
def Obligations.RegistersChangeOnlyByTheirWriters : Prop :=
  ∀ s t : State, Inv s → step s = .next t → resetNext s = false →
    (t.cmd ≠ s.cmd → ∃ v rest, s.inputs = .hostWrite (s.platform.blockBase + 0x000) 8 v :: rest) ∧
    (t.arg0 ≠ s.arg0 → ∃ v rest, s.inputs = .hostWrite (s.platform.blockBase + 0x008) 8 v :: rest) ∧
    (t.arg1 ≠ s.arg1 → ∃ v rest, s.inputs = .hostWrite (s.platform.blockBase + 0x010) 8 v :: rest) ∧
    (t.arg2 ≠ s.arg2 → ∃ v rest, s.inputs = .hostWrite (s.platform.blockBase + 0x018) 8 v :: rest) ∧
    (t.arg3 ≠ s.arg3 → ∃ v rest, s.inputs = .hostWrite (s.platform.blockBase + 0x020) 8 v :: rest) ∧
    (t.resultCode ≠ s.resultCode → t.busy = false) ∧
    (t.result0 ≠ s.result0 ∨ t.result1 ≠ s.result1 → t.busy = false ∧ t.resultCode = .success) ∧
    (t.retryCount ≠ s.retryCount →
      (∃ k ses, s.seq = .active .eraseBlockRetry k ses) ∨ commandNext .eraseBlockRetry s) ∧
    (t.opcount ≠ s.opcount → s.seq ≠ .idle ∨ ∃ i, commandNext i s) ∧
    (t.cmdset ≠ s.cmdset ∨ t.devBase ≠ s.devBase ∨ t.regionBase ≠ s.regionBase ∨ t.regionSize ≠ s.regionSize ∨
      t.blockSize ≠ s.blockSize ∨ t.tagLo ≠ s.tagLo ∨ t.tagHi ≠ s.tagHi ∨ t.totalBlocks ≠ s.totalBlocks →
      commandNext .init s) ∧
    (t.ctrlBase ≠ s.ctrlBase → commandNext .init s ∨ commandNext .relocate s) ∧
    (t.attr ≠ s.attr → commandNext .init s ∨ commandNext .setAttributes s)

/-- R295: the attribute mask has no effect on any other command: a command and every micro-step do the same whatever ATTR
holds, and leave it as it is. -/
def Obligations.AttributesHaveNoEffect : Prop :=
  (∀ (i : Instr) (s t : State) (m : BitVec 32), i ∉ [Instr.init, .getAttributes, .setAttributes] → exec i s = .next t →
    exec i { s with attr := m } = .next { t with attr := m }) ∧
  (∀ (s : State) (d : Draw) (m : BitVec 32), microStep d { s with attr := m } = { microStep d s with attr := m })

/-- R48, R135, R32: a running command uses the operands it took at acceptance: its micro-steps do the same whatever the
ARG registers hold since. -/
def Obligations.OperandsAreReadOnceAtAcceptance : Prop :=
  ∀ (s : State) (ds : List Draw) (v0 v1 v2 v3 : Word),
    runMicro ds { s with arg0 := v0, arg1 := v1, arg2 := v2, arg3 := v3 } =
      { runMicro ds s with arg0 := v0, arg1 := v1, arg2 := v2, arg3 := v3 }

/-- The invariant holds in the model's reset state. Besides the spec's reset values this rests on the model's choices of
platform, host memory and array there (assumption logs 2, 7, 8). -/
def Obligations.ResetMeetsInvariant : Prop := Inv State.reset

/-- The invariant of Safety.lean (canonical memory and array, STATUS consistent, the descriptor as INIT loaded it, every
register within its width, the history numbered and its data stores aligned and inside the window, PENDING inside the
window, a running command inside the ranges its checks admitted) is kept by every step: host accesses of any form,
micro-steps under any draws, chip completions, resets and power cycles. -/
def Obligations.EveryStepKeepsInvariant : Prop :=
  ∀ s t : State, Inv s → step s = .next t → Inv t
end

