-- ==== Sys2Proof/Laws/Chip.lean ====
section
/-! SUPPORT. The flash array: what setting a range leaves in each byte, and the canonical form that every operation of the
chip keeps. -/

namespace Sys2Proof.Machine

/-! ### The runs -/

theorem runsFrom_cur {cur : Cond} {lo x : Nat} {f : Flash} (hf : runsFrom cur lo f = true) (h : x < lo) :
    condFrom cur f x = cur := by
  cases f with
  | nil => rfl
  | cons e r =>
    obtain ⟨a, c⟩ := e
    simp only [runsFrom, Bool.and_eq_true, decide_eq_true_eq] at hf
    rw [condFrom, if_pos (by omega)]

/-- The entries rise from `lo` on. -/
def risesFrom : Nat → Flash → Prop
  | _, [] => True
  | lo, (a, _) :: r => lo ≤ a ∧ risesFrom (a + 1) r

theorem risesFrom_mono {lo lo' : Nat} {f : Flash} (h : lo' ≤ lo) (hf : risesFrom lo f) : risesFrom lo' f := by
  cases f with
  | nil => trivial
  | cons e r => exact ⟨by have := hf.1; omega, hf.2⟩

theorem rises_of_runs {cur : Cond} {lo : Nat} {f : Flash} (hf : runsFrom cur lo f = true) : risesFrom lo f := by
  induction f generalizing cur lo with
  | nil => trivial
  | cons e r ih =>
    obtain ⟨a, c⟩ := e
    simp only [runsFrom, Bool.and_eq_true, decide_eq_true_eq] at hf
    exact ⟨hf.1.1, ih hf.2⟩

theorem condFrom_below {cur : Cond} {lo x : Nat} {f : Flash} (hf : risesFrom lo f) (h : x < lo) :
    condFrom cur f x = cur := by
  cases f with
  | nil => rfl
  | cons e r => rw [condFrom, if_pos (by have := hf.1; omega)]

theorem condFrom_mergeRuns {cur : Cond} {lo : Nat} {f : Flash} (hf : risesFrom lo f) (x : Nat) :
    condFrom cur (mergeRuns cur f) x = condFrom cur f x := by
  induction f generalizing cur lo with
  | nil => rfl
  | cons e r ih =>
    obtain ⟨a, c⟩ := e
    simp only [mergeRuns]
    split
    · next h =>
      subst h
      rw [ih hf.2, condFrom]
      split
      · exact condFrom_below hf.2 (by omega)
      · rfl
    · simp only [condFrom, ih hf.2]

theorem runsFrom_lower {cur : Cond} {lo lo' : Nat} {f : Flash} (h : lo' ≤ lo) (hf : runsFrom cur lo f = true) :
    runsFrom cur lo' f = true := by
  cases f with
  | nil => rfl
  | cons e r =>
    obtain ⟨a, c⟩ := e
    simp only [runsFrom, Bool.and_eq_true, decide_eq_true_eq] at hf ⊢
    exact ⟨⟨by omega, hf.1.2⟩, hf.2⟩

theorem runsFrom_mergeRuns {cur : Cond} {lo : Nat} {f : Flash} (hf : risesFrom lo f) :
    runsFrom cur lo (mergeRuns cur f) = true := by
  induction f generalizing cur lo with
  | nil => rfl
  | cons e r ih =>
    obtain ⟨a, c⟩ := e
    simp only [mergeRuns]
    split
    · exact runsFrom_lower (by have := hf.1; omega) (ih hf.2)
    · next h =>
      simp only [runsFrom, Bool.and_eq_true, decide_eq_true_eq]
      exact ⟨⟨hf.1, h⟩, ih hf.2⟩

theorem condFrom_takeWhile_below {cur c : Cond} {lo x : Nat} (f g : Flash) (h : x < lo) :
    condFrom cur (f.takeWhile (fun e => e.1 < lo) ++ (lo, c) :: g) x = condFrom cur f x := by
  induction f generalizing cur with
  | nil => simp [condFrom, h]
  | cons e r ih =>
    obtain ⟨a, c'⟩ := e
    simp only [List.takeWhile_cons, decide_eq_true_eq]
    split
    · simp only [List.cons_append, condFrom, ih]
    · rw [List.nil_append, condFrom, if_pos h, condFrom, if_pos (by omega)]

theorem condFrom_takeWhile_above {cur c : Cond} {lo x : Nat} (f g : Flash) (h : lo ≤ x) :
    condFrom cur (f.takeWhile (fun e => e.1 < lo) ++ (lo, c) :: g) x = condFrom c g x := by
  induction f generalizing cur with
  | nil => simp [condFrom, Nat.not_lt.mpr h]
  | cons e r ih =>
    obtain ⟨a, c'⟩ := e
    simp only [List.takeWhile_cons, decide_eq_true_eq]
    split
    · simp only [List.cons_append, condFrom, ih]
      rw [if_neg (by omega)]
    · rw [List.nil_append, condFrom, if_neg (by omega)]

theorem condFrom_dropWhile {cur : Cond} {hi x : Nat} (f : Flash) (h : hi ≤ x) :
    condFrom (condFrom cur f hi) (f.dropWhile (fun e => e.1 ≤ hi)) x = condFrom cur f x := by
  induction f generalizing cur with
  | nil => rfl
  | cons e r ih =>
    obtain ⟨a, c⟩ := e
    simp only [List.dropWhile_cons, decide_eq_true_eq]
    split
    · rw [condFrom, if_neg (by omega), ih, condFrom, if_neg (by omega)]
    · rw [show condFrom cur ((a, c) :: r) hi = cur by rw [condFrom, if_pos (by omega)]]

theorem risesFrom_dropWhile {lo hi : Nat} {f : Flash} (hf : risesFrom lo f) :
    risesFrom (hi + 1) (f.dropWhile (fun e => e.1 ≤ hi)) := by
  induction f generalizing lo with
  | nil => trivial
  | cons e r ih =>
    obtain ⟨a, c⟩ := e
    simp only [List.dropWhile_cons, decide_eq_true_eq]
    split
    · exact ih hf.2
    · exact ⟨by omega, hf.2⟩

theorem risesFrom_splice {lo x : Nat} {f g : Flash} (hf : risesFrom lo f) (hx : lo ≤ x) (hg : risesFrom x g) :
    risesFrom lo (f.takeWhile (fun e => e.1 < x) ++ g) := by
  induction f generalizing lo with
  | nil => exact risesFrom_mono hx hg
  | cons e r ih =>
    obtain ⟨a, c⟩ := e
    simp only [List.takeWhile_cons, decide_eq_true_eq]
    split
    · exact ⟨hf.1, ih hf.2 (by omega)⟩
    · exact risesFrom_mono hx hg

theorem risesFrom_setRange {f : Flash} {lo hi : Nat} {c c' : Cond} (hf : canonicalFlash f = true) (h : lo < hi) :
    risesFrom 0 (f.takeWhile (fun e => e.1 < lo) ++ (lo, c) :: (hi, c') :: f.dropWhile (fun e => e.1 ≤ hi)) :=
  risesFrom_splice (rises_of_runs hf) (Nat.zero_le _)
    ⟨Nat.le_refl _, by omega, risesFrom_dropWhile (rises_of_runs hf)⟩

/-- Setting a range gives its bytes the condition and leaves every other byte as it was. -/
theorem condAt_setRange {f : Flash} (hf : canonicalFlash f = true) (lo hi : Nat) (c : Cond) (x : Nat) :
    condAt (setRange f lo hi c) x = if lo ≤ x ∧ x < hi then c else condAt f x := by
  by_cases h : lo < hi
  · rw [setRange, if_pos h]
    simp only [condAt]
    rw [condFrom_mergeRuns (risesFrom_setRange hf h)]
    by_cases h1 : x < lo
    · rw [condFrom_takeWhile_below _ _ h1, if_neg (by omega)]
    · rw [condFrom_takeWhile_above _ _ (by omega)]
      by_cases h2 : x < hi
      · rw [condFrom, if_pos h2, if_pos (by omega)]
      · rw [condFrom, if_neg h2, if_neg (by omega), condFrom_dropWhile _ (by omega)]
  · rw [setRange, if_neg h, if_neg (by omega)]

/-- Setting a range keeps the canonical form. -/
theorem canonical_setRange {f : Flash} (hf : canonicalFlash f = true) (lo hi : Nat) (c : Cond) :
    canonicalFlash (setRange f lo hi c) = true := by
  by_cases h : lo < hi
  · rw [setRange, if_pos h]
    exact runsFrom_mergeRuns (risesFrom_setRange hf h)
  · rw [setRange, if_neg h]
    exact hf

/-! ### Programming -/

theorem canonical_programByte {f : Flash} (hf : canonicalFlash f = true) (u : Bool) (x : Nat) (b : Byte) :
    canonicalFlash (programByte u f x b) = true := canonical_setRange hf _ _ _

/-- What programming one byte leaves in each byte (R97, R98). -/
theorem condAt_programByte {f : Flash} (hf : canonicalFlash f = true) (u : Bool) (x y : Nat) (b : Byte) :
    condAt (programByte u f x b) y = if y = x then programmedCond u b (condAt f x) else condAt f y := by
  rw [programByte, condAt_setRange hf]
  by_cases h : y = x
  · rw [if_pos h, if_pos (by omega)]
  · rw [if_neg h, if_neg (by omega)]

theorem canonical_programWord {f : Flash} (hf : canonicalFlash f = true) (u : Bool) (x : Nat) (w : BitVec 32) :
    canonicalFlash (programWord u f x w) = true := by
  simp only [programWord, List.foldl_cons, List.foldl_nil]
  exact canonical_programByte (canonical_programByte (canonical_programByte (canonical_programByte hf _ _ _) _ _ _)
    _ _ _) _ _ _

/-- What a data store's commit leaves in each byte (R97). -/
theorem condAt_programWord {f : Flash} (hf : canonicalFlash f = true) (u : Bool) (x y : Nat) (w : BitVec 32) :
    condAt (programWord u f x w) y =
      if x ≤ y ∧ y < x + 4 then programmedCond u (wordByte w (y - x)) (condAt f y) else condAt f y := by
  have h0 := canonical_programByte hf u (x + 0) (wordByte w 0)
  have h1 := canonical_programByte h0 u (x + 1) (wordByte w 1)
  have h2 := canonical_programByte h1 u (x + 2) (wordByte w 2)
  simp only [programWord, List.foldl_cons, List.foldl_nil]
  rw [condAt_programByte h2, condAt_programByte h1, condAt_programByte h1, condAt_programByte h0,
    condAt_programByte h0, condAt_programByte h0, condAt_programByte hf, condAt_programByte hf,
    condAt_programByte hf, condAt_programByte hf]
  by_cases h : x ≤ y ∧ y < x + 4
  · rw [if_pos h]
    obtain ⟨j, rfl⟩ : ∃ j, y = x + j := ⟨y - x, by omega⟩
    have hj : j = 0 ∨ j = 1 ∨ j = 2 ∨ j = 3 := by omega
    rcases hj with rfl | rfl | rfl | rfl <;> simp
  · rw [if_neg h]
    split_ifs <;> first | rfl | omega

theorem canonical_page {f : Flash} (hf : canonicalFlash f = true) (u : Bool) (base : Nat)
    (page : List (Nat × BitVec 32)) :
    canonicalFlash (page.foldl (fun f e => programWord u f (e.1 - base) e.2) f) = true := by
  induction page generalizing f with
  | nil => exact hf
  | cons e r ih => exact ih (canonical_programWord hf _ _ _)

theorem canonical_commitPage {c : Chip} (base : Nat) (hc : canonicalFlash c.flash = true) :
    canonicalFlash (commitPage base c).flash = true := canonical_page hc _ _ _

/-! ### Erasing, completion, power -/

theorem canonical_setUnit {f : Flash} (hf : canonicalFlash f = true) (p : Platform) (k : Nat) (c : Cond) :
    canonicalFlash (setUnit p k c f) = true := canonical_setRange hf _ _ _

/-- What setting a unit leaves in each byte (R99). -/
theorem condAt_setUnit {f : Flash} (hf : canonicalFlash f = true) (p : Platform) (k : Nat) (c : Cond) (x : Nat) :
    condAt (setUnit p k c f) x =
      if k * p.cfg.blockSize.toNat ≤ x ∧ x < (k + 1) * p.cfg.blockSize.toNat then c else condAt f x :=
  condAt_setRange hf _ _ _ _

theorem canonical_commitErase {c : Chip} (p : Platform) (b : Nat) (hc : canonicalFlash c.flash = true) :
    canonicalFlash (commitErase p b c).flash = true := by
  rw [commitErase]
  split
  · exact canonical_setUnit hc _ _ _
  · dsimp only
    split
    · exact canonical_setUnit hc _ _ _
    · exact hc

theorem canonical_completeErase {c : Chip} (p : Platform) (k : Nat) (b : Bool) (hc : canonicalFlash c.flash = true) :
    canonicalFlash (completeErase p k b c).flash = true := by
  rw [completeErase]
  split
  · exact canonical_setUnit hc _ _ _
  · exact hc

theorem canonical_units {f : Flash} (hf : canonicalFlash f = true) (p : Platform) (c : Cond) (ks : List Nat) :
    canonicalFlash (ks.foldl (fun f k => setUnit p k c f) f) = true := by
  induction ks generalizing f with
  | nil => exact hf
  | cons k r ih => exact ih (canonical_setUnit hf _ _ _)

theorem canonical_powerCycleChip {c : Chip} (p : Platform) (hc : canonicalFlash c.flash = true) :
    canonicalFlash (powerCycleChip p c).flash = true := by
  simp only [powerCycleChip]
  split
  · exact canonical_setRange hc _ _ _
  · exact canonical_units hc _ _ _

/-- What setting some units leaves in each byte. -/
theorem condAt_units {f : Flash} (hf : canonicalFlash f = true) (p : Platform) (c : Cond) (ks : List Nat) (x : Nat) :
    condAt (ks.foldl (fun f k => setUnit p k c f) f) x =
      if ∃ k ∈ ks, k * p.cfg.blockSize.toNat ≤ x ∧ x < (k + 1) * p.cfg.blockSize.toNat then c else condAt f x := by
  induction ks generalizing f with
  | nil => simp
  | cons k r ih =>
    rw [List.foldl_cons, ih (canonical_setUnit hf _ _ _), condAt_setUnit hf]
    by_cases h1 : ∃ k' ∈ r, k' * p.cfg.blockSize.toNat ≤ x ∧ x < (k' + 1) * p.cfg.blockSize.toNat
    · rw [if_pos h1, if_pos]
      obtain ⟨k', hk, h⟩ := h1
      exact ⟨k', List.mem_cons_of_mem _ hk, h⟩
    · rw [if_neg h1]
      by_cases h2 : k * p.cfg.blockSize.toNat ≤ x ∧ x < (k + 1) * p.cfg.blockSize.toNat
      · rw [if_pos h2, if_pos ⟨k, List.mem_cons_self, h2⟩]
      · rw [if_neg h2, if_neg]
        rintro ⟨k', hk, h⟩
        rcases List.mem_cons.mp hk with rfl | hk
        · exact h2 h
        · exact h1 ⟨k', hk, h⟩

/-! ### PENDING -/

theorem mem_insertUnit {k u : Nat} {l : List Nat} : u ∈ insertUnit k l ↔ u = k ∨ u ∈ l := by
  induction l with
  | nil => simp [insertUnit]
  | cons v r ih =>
    simp only [insertUnit]
    split
    · simp
    · split
      · subst_vars; simp
      · simp only [List.mem_cons, ih]; tauto

theorem pairwise_insertUnit {k : Nat} {l : List Nat} (h : l.Pairwise (· < ·)) : (insertUnit k l).Pairwise (· < ·) := by
  induction l with
  | nil => simp [insertUnit]
  | cons v r ih =>
    rw [List.pairwise_cons] at h
    simp only [insertUnit]
    split
    · next hk => exact List.pairwise_cons.mpr ⟨by
        intro u hu
        rcases List.mem_cons.mp hu with rfl | hu
        · exact hk
        · exact lt_trans hk (h.1 u hu), List.pairwise_cons.mpr h⟩
    · split
      · exact List.pairwise_cons.mpr h
      · refine List.pairwise_cons.mpr ⟨fun u hu => ?_, ih h.2⟩
        rcases mem_insertUnit.mp hu with rfl | hu
        · omega
        · exact h.1 u hu

end Sys2Proof.Machine
end

