-- ==== Sys2Proof/Laws/Memory.lean ====
section
/-! SUPPORT. Host memory: a read after a write, and the canonical form that every operation keeps. -/

namespace Sys2Proof.Machine

theorem canonicalFrom_mono {lo lo' : Nat} {m : Memory} (h : lo' ≤ lo) (hm : canonicalFrom lo m = true) :
    canonicalFrom lo' m = true := by
  cases m with
  | nil => rfl
  | cons c r =>
    obtain ⟨a, v⟩ := c
    simp only [canonicalFrom, Bool.and_eq_true, decide_eq_true_eq] at hm ⊢
    exact ⟨⟨by omega, hm.1.2⟩, hm.2⟩

/-- Below the first cell every byte reads as unlisted. -/
theorem readByte_below {lo a : Nat} {m : Memory} (hm : canonicalFrom lo m = true) (h : a < lo) :
    readByte m a = unlistedByte := by
  cases m with
  | nil => rfl
  | cons c r =>
    obtain ⟨b, v⟩ := c
    simp only [canonicalFrom, Bool.and_eq_true, decide_eq_true_eq] at hm
    rw [readByte, if_neg (by omega), if_pos (by omega)]

theorem canonicalFrom_writeByte {lo a : Nat} (b : Byte) {m : Memory} (hm : canonicalFrom lo m = true) (h : lo ≤ a) :
    canonicalFrom lo (writeByte m a b) = true := by
  induction m generalizing lo with
  | nil => simp only [writeByte]; split <;> simp_all [canonicalFrom]
  | cons c r ih =>
    obtain ⟨x, v⟩ := c
    have hm' := hm
    simp only [canonicalFrom, Bool.and_eq_true, decide_eq_true_eq] at hm
    obtain ⟨⟨hlo, hv⟩, hr⟩ := hm
    simp only [writeByte]
    split
    · split
      · exact hm'
      · simp only [canonicalFrom, Bool.and_eq_true, decide_eq_true_eq]
        exact ⟨⟨h, by assumption⟩, ⟨by omega, hv⟩, hr⟩
    · split
      · subst_vars
        split
        · exact canonicalFrom_mono (by omega) hr
        · simp only [canonicalFrom, Bool.and_eq_true, decide_eq_true_eq]
          exact ⟨⟨h, by assumption⟩, hr⟩
      · simp only [canonicalFrom, Bool.and_eq_true, decide_eq_true_eq]
        exact ⟨⟨hlo, hv⟩, ih hr (by omega)⟩

/-- A byte store keeps the canonical form. -/
theorem wf_writeByte {m : Memory} (a : Nat) (b : Byte) (hm : m.wf = true) : (writeByte m a b).wf = true :=
  canonicalFrom_writeByte b hm (Nat.zero_le a)

/-- `MemWrite` keeps the canonical form. -/
theorem wf_writeBytes {m : Memory} (a n v : Nat) (hm : m.wf = true) : (writeBytes m a n v).wf = true := by
  induction n generalizing m a v with
  | zero => exact hm
  | succ n ih => exact ih _ _ (wf_writeByte a _ hm)

/-- The cells after a byte store are old ones or the one stored. -/
theorem mem_writeByte {m : Memory} {a : Nat} {b : Byte} {c : Host.Cell} (h : c ∈ writeByte m a b) :
    c ∈ m ∨ c = (a, b) := by
  induction m with
  | nil => simp only [writeByte] at h; split at h <;> simp_all
  | cons d r ih =>
    obtain ⟨x, v⟩ := d
    simp only [writeByte] at h
    split_ifs at h <;> simp only [List.mem_cons] at h ⊢ <;> tauto

/-- A byte store below `limit` leaves every listed address below it. -/
theorem below_writeByte {m : Memory} {limit a : Nat} (b : Byte) (hm : m.below limit = true) (ha : a < limit) :
    (writeByte m a b).below limit = true := by
  simp only [Memory.below, List.all_eq_true, decide_eq_true_eq] at hm ⊢
  intro c hc
  rcases mem_writeByte hc with h | rfl
  · exact hm c h
  · exact ha

/-- `MemWrite` to a range that ends at `limit` at most leaves every listed address below it. -/
theorem below_writeBytes {m : Memory} {limit a : Nat} (n v : Nat) (hm : m.below limit = true) (ha : a + n ≤ limit) :
    (writeBytes m a n v).below limit = true := by
  induction n generalizing m a v with
  | zero => exact hm
  | succ n ih => exact ih _ (below_writeByte _ hm (by omega)) (by omega)

/-- Memory made from cells is canonical and below the limit. -/
theorem memoryOf_wf_below (limit : Nat) (cells : List Host.Cell) :
    (memoryOf limit cells).wf = true ∧ (memoryOf limit cells).below limit = true := by
  have h : ∀ (l : List Host.Cell) (m : Memory), (∀ c ∈ l, c.1 < limit) → m.wf = true → m.below limit = true →
      (l.foldl (fun m c => writeByte m c.1 c.2) m).wf = true ∧
      Memory.below (l.foldl (fun m c => writeByte m c.1 c.2) m) limit = true := by
    intro l
    induction l with
    | nil => exact fun m _ hw hb => ⟨hw, hb⟩
    | cons c r ih =>
      exact fun m hl hw hb => ih _ (fun d hd => hl d (List.mem_cons_of_mem _ hd)) (wf_writeByte _ _ hw)
        (below_writeByte _ hb (hl c List.mem_cons_self))
  exact h _ [] (fun c hc => by simpa using (List.mem_filter.1 hc).2) rfl rfl

theorem readByte_writeByte_from {lo a x : Nat} (b : Byte) {m : Memory} (hm : canonicalFrom lo m = true) :
    readByte (writeByte m a b) x = if x = a then b else readByte m x := by
  induction m generalizing lo with
  | nil =>
    simp only [writeByte]
    split <;> simp only [readByte] <;> split_ifs <;> simp_all
  | cons c r ih =>
    obtain ⟨y, v⟩ := c
    simp only [canonicalFrom, Bool.and_eq_true, decide_eq_true_eq] at hm
    obtain ⟨⟨hlo, hv⟩, hr⟩ := hm
    simp only [writeByte]
    split
    · split
      · simp only [readByte]; split_ifs <;> first | rfl | omega | simp_all
      · simp only [readByte]; split_ifs <;> first | rfl | omega
    · split
      · subst_vars
        split
        · by_cases hx : x = y
          · subst hx
            rw [if_pos rfl, readByte_below hr (by omega)]
            simp_all
          · rw [if_neg hx]
            simp only [readByte, if_neg hx]
            split_ifs with h1
            · exact readByte_below hr (by omega)
            · rfl
        · simp only [readByte]; split_ifs <;> rfl
      · simp only [readByte, ih hr]
        split_ifs <;> first | rfl | omega

/-- A byte reads as it was last stored; a store leaves every other byte alone. -/
theorem readByte_writeByte {m : Memory} (hm : m.wf = true) (a x : Nat) (b : Byte) :
    readByte (writeByte m a b) x = if x = a then b else readByte m x := readByte_writeByte_from b hm

/-- Byte `i` of a number, counted from its low end. -/
def byteOf (v i : Nat) : Byte := BitVec.ofNat 8 (v / 256 ^ i)

/-- What `MemWrite(a, n, v)` leaves in each byte (R84). -/
theorem readByte_writeBytes {m : Memory} (hm : m.wf = true) (a n v x : Nat) :
    readByte (writeBytes m a n v) x = if a ≤ x ∧ x < a + n then byteOf v (x - a) else readByte m x := by
  induction n generalizing m a v with
  | zero => simp only [writeBytes]; rw [if_neg (by omega)]
  | succ n ih =>
    rw [writeBytes, ih (wf_writeByte a _ hm), readByte_writeByte hm]
    by_cases h1 : a + 1 ≤ x ∧ x < a + 1 + n
    · rw [if_pos h1, if_pos (by omega)]
      simp only [byteOf]
      obtain ⟨j, rfl⟩ : ∃ j, x = a + 1 + j := ⟨x - (a + 1), by omega⟩
      rw [show a + 1 + j - (a + 1) = j by omega, show a + 1 + j - a = j + 1 by omega, Nat.div_div_eq_div_mul,
        pow_succ']
    · rw [if_neg h1]
      by_cases h2 : x = a
      · subst h2
        rw [if_pos rfl, if_pos (by omega)]
        simp [byteOf]
      · rw [if_neg h2, if_neg (by omega)]

/-- `MemRead(a, n)` lies below `256^n` (R84). -/
theorem readBytes_lt (m : Memory) (a n : Nat) : readBytes m a n < 256 ^ n := by
  induction n generalizing a with
  | zero => simp [readBytes]
  | succ n ih =>
    have h1 := ih (a + 1)
    have h2 := (readByte m a).isLt
    simp only [readBytes, pow_succ]
    omega

/-- Byte `i` of `MemRead(a, n)` is the byte at `a + i`: little-endian (R84, R87). -/
theorem byteOf_readBytes (m : Memory) (a n i : Nat) (h : i < n) : byteOf (readBytes m a n) i = readByte m (a + i) := by
  induction n generalizing a i with
  | zero => omega
  | succ n ih =>
    cases i with
    | zero =>
      simp only [byteOf, readBytes, pow_zero, Nat.div_one, Nat.add_zero]
      apply BitVec.eq_of_toNat_eq
      have := (readByte m a).isLt
      simp only [BitVec.toNat_ofNat]
      omega
    | succ i =>
      have h3 := ih (a + 1) i (by omega)
      have h2 := (readByte m a).isLt
      rw [show a + (i + 1) = a + 1 + i by omega, ← h3]
      simp only [byteOf, readBytes]
      rw [pow_succ', ← Nat.div_div_eq_div_mul]
      congr 2
      omega

end Sys2Proof.Machine
end

