-- ==== Sys2Proof/Laws/State.lean ====
section
/-! SUPPORT. One lemma for each field of State and each shared update: what the field is afterwards. Each is true by rfl. -/

namespace Sys2Proof.Machine

/-! ### goto -/

@[simp] theorem goto_platform (op : Instr) (k : Pos) (ses : Session) (s : State) :
    (goto op k ses s).platform = s.platform := rfl
@[simp] theorem goto_inputs (op : Instr) (k : Pos) (ses : Session) (s : State) :
    (goto op k ses s).inputs = s.inputs := rfl
@[simp] theorem goto_draws (op : Instr) (k : Pos) (ses : Session) (s : State) : (goto op k ses s).draws = s.draws := rfl
@[simp] theorem goto_cmd (op : Instr) (k : Pos) (ses : Session) (s : State) : (goto op k ses s).cmd = s.cmd := rfl
@[simp] theorem goto_arg0 (op : Instr) (k : Pos) (ses : Session) (s : State) : (goto op k ses s).arg0 = s.arg0 := rfl
@[simp] theorem goto_arg1 (op : Instr) (k : Pos) (ses : Session) (s : State) : (goto op k ses s).arg1 = s.arg1 := rfl
@[simp] theorem goto_arg2 (op : Instr) (k : Pos) (ses : Session) (s : State) : (goto op k ses s).arg2 = s.arg2 := rfl
@[simp] theorem goto_arg3 (op : Instr) (k : Pos) (ses : Session) (s : State) : (goto op k ses s).arg3 = s.arg3 := rfl
@[simp] theorem goto_busy (op : Instr) (k : Pos) (ses : Session) (s : State) : (goto op k ses s).busy = s.busy := rfl
@[simp] theorem goto_lstate (op : Instr) (k : Pos) (ses : Session) (s : State) :
    (goto op k ses s).lstate = s.lstate := rfl
@[simp] theorem goto_halted (op : Instr) (k : Pos) (ses : Session) (s : State) :
    (goto op k ses s).halted = s.halted := rfl
@[simp] theorem goto_fault (op : Instr) (k : Pos) (ses : Session) (s : State) : (goto op k ses s).fault = s.fault := rfl
@[simp] theorem goto_resultCode (op : Instr) (k : Pos) (ses : Session) (s : State) :
    (goto op k ses s).resultCode = s.resultCode := rfl
@[simp] theorem goto_faultReason (op : Instr) (k : Pos) (ses : Session) (s : State) :
    (goto op k ses s).faultReason = s.faultReason := rfl
@[simp] theorem goto_result0 (op : Instr) (k : Pos) (ses : Session) (s : State) :
    (goto op k ses s).result0 = s.result0 := rfl
@[simp] theorem goto_result1 (op : Instr) (k : Pos) (ses : Session) (s : State) :
    (goto op k ses s).result1 = s.result1 := rfl
@[simp] theorem goto_retryCount (op : Instr) (k : Pos) (ses : Session) (s : State) :
    (goto op k ses s).retryCount = s.retryCount := rfl
@[simp] theorem goto_opcount (op : Instr) (k : Pos) (ses : Session) (s : State) :
    (goto op k ses s).opcount = s.opcount := rfl
@[simp] theorem goto_cmdset (op : Instr) (k : Pos) (ses : Session) (s : State) :
    (goto op k ses s).cmdset = s.cmdset := rfl
@[simp] theorem goto_ctrlBase (op : Instr) (k : Pos) (ses : Session) (s : State) :
    (goto op k ses s).ctrlBase = s.ctrlBase := rfl
@[simp] theorem goto_devBase (op : Instr) (k : Pos) (ses : Session) (s : State) :
    (goto op k ses s).devBase = s.devBase := rfl
@[simp] theorem goto_regionBase (op : Instr) (k : Pos) (ses : Session) (s : State) :
    (goto op k ses s).regionBase = s.regionBase := rfl
@[simp] theorem goto_regionSize (op : Instr) (k : Pos) (ses : Session) (s : State) :
    (goto op k ses s).regionSize = s.regionSize := rfl
@[simp] theorem goto_blockSize (op : Instr) (k : Pos) (ses : Session) (s : State) :
    (goto op k ses s).blockSize = s.blockSize := rfl
@[simp] theorem goto_tagLo (op : Instr) (k : Pos) (ses : Session) (s : State) : (goto op k ses s).tagLo = s.tagLo := rfl
@[simp] theorem goto_tagHi (op : Instr) (k : Pos) (ses : Session) (s : State) : (goto op k ses s).tagHi = s.tagHi := rfl
@[simp] theorem goto_totalBlocks (op : Instr) (k : Pos) (ses : Session) (s : State) :
    (goto op k ses s).totalBlocks = s.totalBlocks := rfl
@[simp] theorem goto_attr (op : Instr) (k : Pos) (ses : Session) (s : State) : (goto op k ses s).attr = s.attr := rfl
@[simp] theorem goto_seq (op : Instr) (k : Pos) (ses : Session) (s : State) :
    (goto op k ses s).seq = .active op k ses := rfl
@[simp] theorem goto_chip (op : Instr) (k : Pos) (ses : Session) (s : State) : (goto op k ses s).chip = s.chip := rfl
@[simp] theorem goto_mem (op : Instr) (k : Pos) (ses : Session) (s : State) : (goto op k ses s).mem = s.mem := rfl
@[simp] theorem goto_history (op : Instr) (k : Pos) (ses : Session) (s : State) :
    (goto op k ses s).history = s.history := rfl
@[simp] theorem goto_readData (op : Instr) (k : Pos) (ses : Session) (s : State) :
    (goto op k ses s).readData = s.readData := rfl

/-! ### finish -/

@[simp] theorem finish_platform (c : Status) (s : State) : (finish c s).platform = s.platform := rfl
@[simp] theorem finish_inputs (c : Status) (s : State) : (finish c s).inputs = s.inputs := rfl
@[simp] theorem finish_draws (c : Status) (s : State) : (finish c s).draws = s.draws := rfl
@[simp] theorem finish_cmd (c : Status) (s : State) : (finish c s).cmd = s.cmd := rfl
@[simp] theorem finish_arg0 (c : Status) (s : State) : (finish c s).arg0 = s.arg0 := rfl
@[simp] theorem finish_arg1 (c : Status) (s : State) : (finish c s).arg1 = s.arg1 := rfl
@[simp] theorem finish_arg2 (c : Status) (s : State) : (finish c s).arg2 = s.arg2 := rfl
@[simp] theorem finish_arg3 (c : Status) (s : State) : (finish c s).arg3 = s.arg3 := rfl
@[simp] theorem finish_busy (c : Status) (s : State) : (finish c s).busy = false := rfl
@[simp] theorem finish_lstate (c : Status) (s : State) : (finish c s).lstate = s.lstate := rfl
@[simp] theorem finish_halted (c : Status) (s : State) : (finish c s).halted = s.halted := rfl
@[simp] theorem finish_fault (c : Status) (s : State) : (finish c s).fault = s.fault := rfl
@[simp] theorem finish_resultCode (c : Status) (s : State) : (finish c s).resultCode = c := rfl
@[simp] theorem finish_faultReason (c : Status) (s : State) : (finish c s).faultReason = s.faultReason := rfl
@[simp] theorem finish_result0 (c : Status) (s : State) : (finish c s).result0 = s.result0 := rfl
@[simp] theorem finish_result1 (c : Status) (s : State) : (finish c s).result1 = s.result1 := rfl
@[simp] theorem finish_retryCount (c : Status) (s : State) : (finish c s).retryCount = s.retryCount := rfl
@[simp] theorem finish_opcount (c : Status) (s : State) : (finish c s).opcount = s.opcount := rfl
@[simp] theorem finish_cmdset (c : Status) (s : State) : (finish c s).cmdset = s.cmdset := rfl
@[simp] theorem finish_ctrlBase (c : Status) (s : State) : (finish c s).ctrlBase = s.ctrlBase := rfl
@[simp] theorem finish_devBase (c : Status) (s : State) : (finish c s).devBase = s.devBase := rfl
@[simp] theorem finish_regionBase (c : Status) (s : State) : (finish c s).regionBase = s.regionBase := rfl
@[simp] theorem finish_regionSize (c : Status) (s : State) : (finish c s).regionSize = s.regionSize := rfl
@[simp] theorem finish_blockSize (c : Status) (s : State) : (finish c s).blockSize = s.blockSize := rfl
@[simp] theorem finish_tagLo (c : Status) (s : State) : (finish c s).tagLo = s.tagLo := rfl
@[simp] theorem finish_tagHi (c : Status) (s : State) : (finish c s).tagHi = s.tagHi := rfl
@[simp] theorem finish_totalBlocks (c : Status) (s : State) : (finish c s).totalBlocks = s.totalBlocks := rfl
@[simp] theorem finish_attr (c : Status) (s : State) : (finish c s).attr = s.attr := rfl
@[simp] theorem finish_seq (c : Status) (s : State) : (finish c s).seq = .idle := rfl
@[simp] theorem finish_chip (c : Status) (s : State) : (finish c s).chip = s.chip := rfl
@[simp] theorem finish_mem (c : Status) (s : State) : (finish c s).mem = s.mem := rfl
@[simp] theorem finish_history (c : Status) (s : State) : (finish c s).history = s.history := rfl
@[simp] theorem finish_readData (c : Status) (s : State) : (finish c s).readData = s.readData := rfl

/-! ### fatal -/

@[simp] theorem fatal_platform (s : State) : (fatal s).platform = s.platform := rfl
@[simp] theorem fatal_inputs (s : State) : (fatal s).inputs = s.inputs := rfl
@[simp] theorem fatal_draws (s : State) : (fatal s).draws = s.draws := rfl
@[simp] theorem fatal_cmd (s : State) : (fatal s).cmd = s.cmd := rfl
@[simp] theorem fatal_arg0 (s : State) : (fatal s).arg0 = s.arg0 := rfl
@[simp] theorem fatal_arg1 (s : State) : (fatal s).arg1 = s.arg1 := rfl
@[simp] theorem fatal_arg2 (s : State) : (fatal s).arg2 = s.arg2 := rfl
@[simp] theorem fatal_arg3 (s : State) : (fatal s).arg3 = s.arg3 := rfl
@[simp] theorem fatal_busy (s : State) : (fatal s).busy = false := rfl
@[simp] theorem fatal_lstate (s : State) : (fatal s).lstate = s.lstate := rfl
@[simp] theorem fatal_halted (s : State) : (fatal s).halted = true := rfl
@[simp] theorem fatal_fault (s : State) : (fatal s).fault = s.fault := rfl
@[simp] theorem fatal_resultCode (s : State) : (fatal s).resultCode = .unrecoverable := rfl
@[simp] theorem fatal_faultReason (s : State) : (fatal s).faultReason = s.faultReason := rfl
@[simp] theorem fatal_result0 (s : State) : (fatal s).result0 = s.result0 := rfl
@[simp] theorem fatal_result1 (s : State) : (fatal s).result1 = s.result1 := rfl
@[simp] theorem fatal_retryCount (s : State) : (fatal s).retryCount = s.retryCount := rfl
@[simp] theorem fatal_opcount (s : State) : (fatal s).opcount = s.opcount := rfl
@[simp] theorem fatal_cmdset (s : State) : (fatal s).cmdset = s.cmdset := rfl
@[simp] theorem fatal_ctrlBase (s : State) : (fatal s).ctrlBase = s.ctrlBase := rfl
@[simp] theorem fatal_devBase (s : State) : (fatal s).devBase = s.devBase := rfl
@[simp] theorem fatal_regionBase (s : State) : (fatal s).regionBase = s.regionBase := rfl
@[simp] theorem fatal_regionSize (s : State) : (fatal s).regionSize = s.regionSize := rfl
@[simp] theorem fatal_blockSize (s : State) : (fatal s).blockSize = s.blockSize := rfl
@[simp] theorem fatal_tagLo (s : State) : (fatal s).tagLo = s.tagLo := rfl
@[simp] theorem fatal_tagHi (s : State) : (fatal s).tagHi = s.tagHi := rfl
@[simp] theorem fatal_totalBlocks (s : State) : (fatal s).totalBlocks = s.totalBlocks := rfl
@[simp] theorem fatal_attr (s : State) : (fatal s).attr = s.attr := rfl
@[simp] theorem fatal_seq (s : State) : (fatal s).seq = .idle := rfl
@[simp] theorem fatal_chip (s : State) : (fatal s).chip = s.chip := rfl
@[simp] theorem fatal_mem (s : State) : (fatal s).mem = s.mem := rfl
@[simp] theorem fatal_history (s : State) : (fatal s).history = s.history := rfl
@[simp] theorem fatal_readData (s : State) : (fatal s).readData = s.readData := rfl

/-! ### raise -/

@[simp] theorem raise_platform (r : FaultReason) (s : State) : (raise r s).platform = s.platform := rfl
@[simp] theorem raise_inputs (r : FaultReason) (s : State) : (raise r s).inputs = s.inputs := rfl
@[simp] theorem raise_draws (r : FaultReason) (s : State) : (raise r s).draws = s.draws := rfl
@[simp] theorem raise_cmd (r : FaultReason) (s : State) : (raise r s).cmd = s.cmd := rfl
@[simp] theorem raise_arg0 (r : FaultReason) (s : State) : (raise r s).arg0 = s.arg0 := rfl
@[simp] theorem raise_arg1 (r : FaultReason) (s : State) : (raise r s).arg1 = s.arg1 := rfl
@[simp] theorem raise_arg2 (r : FaultReason) (s : State) : (raise r s).arg2 = s.arg2 := rfl
@[simp] theorem raise_arg3 (r : FaultReason) (s : State) : (raise r s).arg3 = s.arg3 := rfl
@[simp] theorem raise_busy (r : FaultReason) (s : State) : (raise r s).busy = false := rfl
@[simp] theorem raise_lstate (r : FaultReason) (s : State) : (raise r s).lstate = s.lstate := rfl
@[simp] theorem raise_halted (r : FaultReason) (s : State) : (raise r s).halted = s.halted := rfl
@[simp] theorem raise_fault (r : FaultReason) (s : State) : (raise r s).fault = true := rfl
@[simp] theorem raise_resultCode (r : FaultReason) (s : State) : (raise r s).resultCode = s.resultCode := rfl
@[simp] theorem raise_faultReason (r : FaultReason) (s : State) : (raise r s).faultReason = r := rfl
@[simp] theorem raise_result0 (r : FaultReason) (s : State) : (raise r s).result0 = s.result0 := rfl
@[simp] theorem raise_result1 (r : FaultReason) (s : State) : (raise r s).result1 = s.result1 := rfl
@[simp] theorem raise_retryCount (r : FaultReason) (s : State) : (raise r s).retryCount = s.retryCount := rfl
@[simp] theorem raise_opcount (r : FaultReason) (s : State) : (raise r s).opcount = s.opcount := rfl
@[simp] theorem raise_cmdset (r : FaultReason) (s : State) : (raise r s).cmdset = s.cmdset := rfl
@[simp] theorem raise_ctrlBase (r : FaultReason) (s : State) : (raise r s).ctrlBase = s.ctrlBase := rfl
@[simp] theorem raise_devBase (r : FaultReason) (s : State) : (raise r s).devBase = s.devBase := rfl
@[simp] theorem raise_regionBase (r : FaultReason) (s : State) : (raise r s).regionBase = s.regionBase := rfl
@[simp] theorem raise_regionSize (r : FaultReason) (s : State) : (raise r s).regionSize = s.regionSize := rfl
@[simp] theorem raise_blockSize (r : FaultReason) (s : State) : (raise r s).blockSize = s.blockSize := rfl
@[simp] theorem raise_tagLo (r : FaultReason) (s : State) : (raise r s).tagLo = s.tagLo := rfl
@[simp] theorem raise_tagHi (r : FaultReason) (s : State) : (raise r s).tagHi = s.tagHi := rfl
@[simp] theorem raise_totalBlocks (r : FaultReason) (s : State) : (raise r s).totalBlocks = s.totalBlocks := rfl
@[simp] theorem raise_attr (r : FaultReason) (s : State) : (raise r s).attr = s.attr := rfl
@[simp] theorem raise_seq (r : FaultReason) (s : State) : (raise r s).seq = .idle := rfl
@[simp] theorem raise_chip (r : FaultReason) (s : State) : (raise r s).chip = s.chip := rfl
@[simp] theorem raise_mem (r : FaultReason) (s : State) : (raise r s).mem = s.mem := rfl
@[simp] theorem raise_history (r : FaultReason) (s : State) : (raise r s).history = s.history := rfl
@[simp] theorem raise_readData (r : FaultReason) (s : State) : (raise r s).readData = s.readData := rfl

/-! ### abandon -/

@[simp] theorem abandon_platform (s : State) : (abandon s).platform = s.platform := rfl
@[simp] theorem abandon_inputs (s : State) : (abandon s).inputs = s.inputs := rfl
@[simp] theorem abandon_draws (s : State) : (abandon s).draws = s.draws := rfl
@[simp] theorem abandon_cmd (s : State) : (abandon s).cmd = s.cmd := rfl
@[simp] theorem abandon_arg0 (s : State) : (abandon s).arg0 = s.arg0 := rfl
@[simp] theorem abandon_arg1 (s : State) : (abandon s).arg1 = s.arg1 := rfl
@[simp] theorem abandon_arg2 (s : State) : (abandon s).arg2 = s.arg2 := rfl
@[simp] theorem abandon_arg3 (s : State) : (abandon s).arg3 = s.arg3 := rfl
@[simp] theorem abandon_busy (s : State) : (abandon s).busy = s.busy := rfl
@[simp] theorem abandon_lstate (s : State) : (abandon s).lstate = s.lstate := rfl
@[simp] theorem abandon_halted (s : State) : (abandon s).halted = s.halted := rfl
@[simp] theorem abandon_fault (s : State) : (abandon s).fault = s.fault := rfl
@[simp] theorem abandon_resultCode (s : State) : (abandon s).resultCode = s.resultCode := rfl
@[simp] theorem abandon_faultReason (s : State) : (abandon s).faultReason = s.faultReason := rfl
@[simp] theorem abandon_result0 (s : State) : (abandon s).result0 = s.result0 := rfl
@[simp] theorem abandon_result1 (s : State) : (abandon s).result1 = s.result1 := rfl
@[simp] theorem abandon_retryCount (s : State) : (abandon s).retryCount = s.retryCount := rfl
@[simp] theorem abandon_opcount (s : State) : (abandon s).opcount = s.opcount := rfl
@[simp] theorem abandon_cmdset (s : State) : (abandon s).cmdset = s.cmdset := rfl
@[simp] theorem abandon_ctrlBase (s : State) : (abandon s).ctrlBase = s.ctrlBase := rfl
@[simp] theorem abandon_devBase (s : State) : (abandon s).devBase = s.devBase := rfl
@[simp] theorem abandon_regionBase (s : State) : (abandon s).regionBase = s.regionBase := rfl
@[simp] theorem abandon_regionSize (s : State) : (abandon s).regionSize = s.regionSize := rfl
@[simp] theorem abandon_blockSize (s : State) : (abandon s).blockSize = s.blockSize := rfl
@[simp] theorem abandon_tagLo (s : State) : (abandon s).tagLo = s.tagLo := rfl
@[simp] theorem abandon_tagHi (s : State) : (abandon s).tagHi = s.tagHi := rfl
@[simp] theorem abandon_totalBlocks (s : State) : (abandon s).totalBlocks = s.totalBlocks := rfl
@[simp] theorem abandon_attr (s : State) : (abandon s).attr = s.attr := rfl
@[simp] theorem abandon_seq (s : State) : (abandon s).seq = s.seq := rfl
@[simp] theorem abandon_chip (s : State) :
    (abandon s).chip = { s.chip with undef := s.chip.undef || midSequence s.seq } := rfl
@[simp] theorem abandon_mem (s : State) : (abandon s).mem = s.mem := rfl
@[simp] theorem abandon_history (s : State) : (abandon s).history = s.history := rfl
@[simp] theorem abandon_readData (s : State) : (abandon s).readData = s.readData := rfl

/-! ### emit -/

@[simp] theorem emit_platform (kind : EventKind) (reg value : Option Word) (target : Option Nat) (answer : Answer) (s : State) :
    (emit kind reg value target answer s).platform = s.platform := rfl
@[simp] theorem emit_inputs (kind : EventKind) (reg value : Option Word) (target : Option Nat) (answer : Answer) (s : State) :
    (emit kind reg value target answer s).inputs = s.inputs := rfl
@[simp] theorem emit_draws (kind : EventKind) (reg value : Option Word) (target : Option Nat) (answer : Answer) (s : State) :
    (emit kind reg value target answer s).draws = s.draws := rfl
@[simp] theorem emit_cmd (kind : EventKind) (reg value : Option Word) (target : Option Nat) (answer : Answer) (s : State) :
    (emit kind reg value target answer s).cmd = s.cmd := rfl
@[simp] theorem emit_arg0 (kind : EventKind) (reg value : Option Word) (target : Option Nat) (answer : Answer) (s : State) :
    (emit kind reg value target answer s).arg0 = s.arg0 := rfl
@[simp] theorem emit_arg1 (kind : EventKind) (reg value : Option Word) (target : Option Nat) (answer : Answer) (s : State) :
    (emit kind reg value target answer s).arg1 = s.arg1 := rfl
@[simp] theorem emit_arg2 (kind : EventKind) (reg value : Option Word) (target : Option Nat) (answer : Answer) (s : State) :
    (emit kind reg value target answer s).arg2 = s.arg2 := rfl
@[simp] theorem emit_arg3 (kind : EventKind) (reg value : Option Word) (target : Option Nat) (answer : Answer) (s : State) :
    (emit kind reg value target answer s).arg3 = s.arg3 := rfl
@[simp] theorem emit_busy (kind : EventKind) (reg value : Option Word) (target : Option Nat) (answer : Answer) (s : State) :
    (emit kind reg value target answer s).busy = s.busy := rfl
@[simp] theorem emit_lstate (kind : EventKind) (reg value : Option Word) (target : Option Nat) (answer : Answer) (s : State) :
    (emit kind reg value target answer s).lstate = s.lstate := rfl
@[simp] theorem emit_halted (kind : EventKind) (reg value : Option Word) (target : Option Nat) (answer : Answer) (s : State) :
    (emit kind reg value target answer s).halted = s.halted := rfl
@[simp] theorem emit_fault (kind : EventKind) (reg value : Option Word) (target : Option Nat) (answer : Answer) (s : State) :
    (emit kind reg value target answer s).fault = s.fault := rfl
@[simp] theorem emit_resultCode (kind : EventKind) (reg value : Option Word) (target : Option Nat) (answer : Answer) (s : State) :
    (emit kind reg value target answer s).resultCode = s.resultCode := rfl
@[simp] theorem emit_faultReason (kind : EventKind) (reg value : Option Word) (target : Option Nat) (answer : Answer) (s : State) :
    (emit kind reg value target answer s).faultReason = s.faultReason := rfl
@[simp] theorem emit_result0 (kind : EventKind) (reg value : Option Word) (target : Option Nat) (answer : Answer) (s : State) :
    (emit kind reg value target answer s).result0 = s.result0 := rfl
@[simp] theorem emit_result1 (kind : EventKind) (reg value : Option Word) (target : Option Nat) (answer : Answer) (s : State) :
    (emit kind reg value target answer s).result1 = s.result1 := rfl
@[simp] theorem emit_retryCount (kind : EventKind) (reg value : Option Word) (target : Option Nat) (answer : Answer) (s : State) :
    (emit kind reg value target answer s).retryCount = s.retryCount := rfl
@[simp] theorem emit_opcount (kind : EventKind) (reg value : Option Word) (target : Option Nat) (answer : Answer) (s : State) :
    (emit kind reg value target answer s).opcount = s.opcount := rfl
@[simp] theorem emit_cmdset (kind : EventKind) (reg value : Option Word) (target : Option Nat) (answer : Answer) (s : State) :
    (emit kind reg value target answer s).cmdset = s.cmdset := rfl
@[simp] theorem emit_ctrlBase (kind : EventKind) (reg value : Option Word) (target : Option Nat) (answer : Answer) (s : State) :
    (emit kind reg value target answer s).ctrlBase = s.ctrlBase := rfl
@[simp] theorem emit_devBase (kind : EventKind) (reg value : Option Word) (target : Option Nat) (answer : Answer) (s : State) :
    (emit kind reg value target answer s).devBase = s.devBase := rfl
@[simp] theorem emit_regionBase (kind : EventKind) (reg value : Option Word) (target : Option Nat) (answer : Answer) (s : State) :
    (emit kind reg value target answer s).regionBase = s.regionBase := rfl
@[simp] theorem emit_regionSize (kind : EventKind) (reg value : Option Word) (target : Option Nat) (answer : Answer) (s : State) :
    (emit kind reg value target answer s).regionSize = s.regionSize := rfl
@[simp] theorem emit_blockSize (kind : EventKind) (reg value : Option Word) (target : Option Nat) (answer : Answer) (s : State) :
    (emit kind reg value target answer s).blockSize = s.blockSize := rfl
@[simp] theorem emit_tagLo (kind : EventKind) (reg value : Option Word) (target : Option Nat) (answer : Answer) (s : State) :
    (emit kind reg value target answer s).tagLo = s.tagLo := rfl
@[simp] theorem emit_tagHi (kind : EventKind) (reg value : Option Word) (target : Option Nat) (answer : Answer) (s : State) :
    (emit kind reg value target answer s).tagHi = s.tagHi := rfl
@[simp] theorem emit_totalBlocks (kind : EventKind) (reg value : Option Word) (target : Option Nat) (answer : Answer) (s : State) :
    (emit kind reg value target answer s).totalBlocks = s.totalBlocks := rfl
@[simp] theorem emit_attr (kind : EventKind) (reg value : Option Word) (target : Option Nat) (answer : Answer) (s : State) :
    (emit kind reg value target answer s).attr = s.attr := rfl
@[simp] theorem emit_seq (kind : EventKind) (reg value : Option Word) (target : Option Nat) (answer : Answer) (s : State) :
    (emit kind reg value target answer s).seq = s.seq := rfl
@[simp] theorem emit_chip (kind : EventKind) (reg value : Option Word) (target : Option Nat) (answer : Answer) (s : State) :
    (emit kind reg value target answer s).chip = s.chip := rfl
@[simp] theorem emit_mem (kind : EventKind) (reg value : Option Word) (target : Option Nat) (answer : Answer) (s : State) :
    (emit kind reg value target answer s).mem = s.mem := rfl
@[simp] theorem emit_history (kind : EventKind) (reg value : Option Word) (target : Option Nat) (answer : Answer) (s : State) :
    (emit kind reg value target answer s).history = s.history ++ [⟨s.history.length, kind, reg, value, target, answer⟩] := rfl
@[simp] theorem emit_readData (kind : EventKind) (reg value : Option Word) (target : Option Nat) (answer : Answer) (s : State) :
    (emit kind reg value target answer s).readData = s.readData := rfl

/-! ### configure -/

@[simp] theorem configure_platform (kind : EventKind) (reg value : Word) (p : Port) (ok : Bool) (s : State) :
    (configure kind reg value p ok s).platform = s.platform := rfl
@[simp] theorem configure_inputs (kind : EventKind) (reg value : Word) (p : Port) (ok : Bool) (s : State) :
    (configure kind reg value p ok s).inputs = s.inputs := rfl
@[simp] theorem configure_draws (kind : EventKind) (reg value : Word) (p : Port) (ok : Bool) (s : State) :
    (configure kind reg value p ok s).draws = s.draws := rfl
@[simp] theorem configure_cmd (kind : EventKind) (reg value : Word) (p : Port) (ok : Bool) (s : State) :
    (configure kind reg value p ok s).cmd = s.cmd := rfl
@[simp] theorem configure_arg0 (kind : EventKind) (reg value : Word) (p : Port) (ok : Bool) (s : State) :
    (configure kind reg value p ok s).arg0 = s.arg0 := rfl
@[simp] theorem configure_arg1 (kind : EventKind) (reg value : Word) (p : Port) (ok : Bool) (s : State) :
    (configure kind reg value p ok s).arg1 = s.arg1 := rfl
@[simp] theorem configure_arg2 (kind : EventKind) (reg value : Word) (p : Port) (ok : Bool) (s : State) :
    (configure kind reg value p ok s).arg2 = s.arg2 := rfl
@[simp] theorem configure_arg3 (kind : EventKind) (reg value : Word) (p : Port) (ok : Bool) (s : State) :
    (configure kind reg value p ok s).arg3 = s.arg3 := rfl
@[simp] theorem configure_busy (kind : EventKind) (reg value : Word) (p : Port) (ok : Bool) (s : State) :
    (configure kind reg value p ok s).busy = s.busy := rfl
@[simp] theorem configure_lstate (kind : EventKind) (reg value : Word) (p : Port) (ok : Bool) (s : State) :
    (configure kind reg value p ok s).lstate = s.lstate := rfl
@[simp] theorem configure_halted (kind : EventKind) (reg value : Word) (p : Port) (ok : Bool) (s : State) :
    (configure kind reg value p ok s).halted = s.halted := rfl
@[simp] theorem configure_fault (kind : EventKind) (reg value : Word) (p : Port) (ok : Bool) (s : State) :
    (configure kind reg value p ok s).fault = s.fault := rfl
@[simp] theorem configure_resultCode (kind : EventKind) (reg value : Word) (p : Port) (ok : Bool) (s : State) :
    (configure kind reg value p ok s).resultCode = s.resultCode := rfl
@[simp] theorem configure_faultReason (kind : EventKind) (reg value : Word) (p : Port) (ok : Bool) (s : State) :
    (configure kind reg value p ok s).faultReason = s.faultReason := rfl
@[simp] theorem configure_result0 (kind : EventKind) (reg value : Word) (p : Port) (ok : Bool) (s : State) :
    (configure kind reg value p ok s).result0 = s.result0 := rfl
@[simp] theorem configure_result1 (kind : EventKind) (reg value : Word) (p : Port) (ok : Bool) (s : State) :
    (configure kind reg value p ok s).result1 = s.result1 := rfl
@[simp] theorem configure_retryCount (kind : EventKind) (reg value : Word) (p : Port) (ok : Bool) (s : State) :
    (configure kind reg value p ok s).retryCount = s.retryCount := rfl
@[simp] theorem configure_opcount (kind : EventKind) (reg value : Word) (p : Port) (ok : Bool) (s : State) :
    (configure kind reg value p ok s).opcount = s.opcount := rfl
@[simp] theorem configure_cmdset (kind : EventKind) (reg value : Word) (p : Port) (ok : Bool) (s : State) :
    (configure kind reg value p ok s).cmdset = s.cmdset := rfl
@[simp] theorem configure_ctrlBase (kind : EventKind) (reg value : Word) (p : Port) (ok : Bool) (s : State) :
    (configure kind reg value p ok s).ctrlBase = s.ctrlBase := rfl
@[simp] theorem configure_devBase (kind : EventKind) (reg value : Word) (p : Port) (ok : Bool) (s : State) :
    (configure kind reg value p ok s).devBase = s.devBase := rfl
@[simp] theorem configure_regionBase (kind : EventKind) (reg value : Word) (p : Port) (ok : Bool) (s : State) :
    (configure kind reg value p ok s).regionBase = s.regionBase := rfl
@[simp] theorem configure_regionSize (kind : EventKind) (reg value : Word) (p : Port) (ok : Bool) (s : State) :
    (configure kind reg value p ok s).regionSize = s.regionSize := rfl
@[simp] theorem configure_blockSize (kind : EventKind) (reg value : Word) (p : Port) (ok : Bool) (s : State) :
    (configure kind reg value p ok s).blockSize = s.blockSize := rfl
@[simp] theorem configure_tagLo (kind : EventKind) (reg value : Word) (p : Port) (ok : Bool) (s : State) :
    (configure kind reg value p ok s).tagLo = s.tagLo := rfl
@[simp] theorem configure_tagHi (kind : EventKind) (reg value : Word) (p : Port) (ok : Bool) (s : State) :
    (configure kind reg value p ok s).tagHi = s.tagHi := rfl
@[simp] theorem configure_totalBlocks (kind : EventKind) (reg value : Word) (p : Port) (ok : Bool) (s : State) :
    (configure kind reg value p ok s).totalBlocks = s.totalBlocks := rfl
@[simp] theorem configure_attr (kind : EventKind) (reg value : Word) (p : Port) (ok : Bool) (s : State) :
    (configure kind reg value p ok s).attr = s.attr := rfl
@[simp] theorem configure_seq (kind : EventKind) (reg value : Word) (p : Port) (ok : Bool) (s : State) :
    (configure kind reg value p ok s).seq = s.seq := rfl
@[simp] theorem configure_chip (kind : EventKind) (reg value : Word) (p : Port) (ok : Bool) (s : State) :
    (configure kind reg value p ok s).chip = { s.chip with undef := s.chip.undef || !ok } := rfl
@[simp] theorem configure_mem (kind : EventKind) (reg value : Word) (p : Port) (ok : Bool) (s : State) :
    (configure kind reg value p ok s).mem = s.mem := rfl
@[simp] theorem configure_history (kind : EventKind) (reg value : Word) (p : Port) (ok : Bool) (s : State) :
    (configure kind reg value p ok s).history = s.history ++
      [⟨s.history.length, kind, some reg, some value, some (portAddr s p), if ok then .ok else .error⟩] := rfl
@[simp] theorem configure_readData (kind : EventKind) (reg value : Word) (p : Port) (ok : Bool) (s : State) :
    (configure kind reg value p ok s).readData = s.readData := rfl

/-! ### beginEvent -/

@[simp] theorem beginEvent_platform (s : State) : (beginEvent s).platform = s.platform := rfl
@[simp] theorem beginEvent_inputs (s : State) : (beginEvent s).inputs = s.inputs := rfl
@[simp] theorem beginEvent_draws (s : State) : (beginEvent s).draws = s.draws := rfl
@[simp] theorem beginEvent_cmd (s : State) : (beginEvent s).cmd = s.cmd := rfl
@[simp] theorem beginEvent_arg0 (s : State) : (beginEvent s).arg0 = s.arg0 := rfl
@[simp] theorem beginEvent_arg1 (s : State) : (beginEvent s).arg1 = s.arg1 := rfl
@[simp] theorem beginEvent_arg2 (s : State) : (beginEvent s).arg2 = s.arg2 := rfl
@[simp] theorem beginEvent_arg3 (s : State) : (beginEvent s).arg3 = s.arg3 := rfl
@[simp] theorem beginEvent_busy (s : State) : (beginEvent s).busy = s.busy := rfl
@[simp] theorem beginEvent_lstate (s : State) : (beginEvent s).lstate = s.lstate := rfl
@[simp] theorem beginEvent_halted (s : State) : (beginEvent s).halted = s.halted := rfl
@[simp] theorem beginEvent_fault (s : State) : (beginEvent s).fault = s.fault := rfl
@[simp] theorem beginEvent_resultCode (s : State) : (beginEvent s).resultCode = s.resultCode := rfl
@[simp] theorem beginEvent_faultReason (s : State) : (beginEvent s).faultReason = s.faultReason := rfl
@[simp] theorem beginEvent_result0 (s : State) : (beginEvent s).result0 = s.result0 := rfl
@[simp] theorem beginEvent_result1 (s : State) : (beginEvent s).result1 = s.result1 := rfl
@[simp] theorem beginEvent_retryCount (s : State) : (beginEvent s).retryCount = s.retryCount := rfl
@[simp] theorem beginEvent_opcount (s : State) : (beginEvent s).opcount = s.platform.width.trunc (s.opcount + 1) := rfl
@[simp] theorem beginEvent_cmdset (s : State) : (beginEvent s).cmdset = s.cmdset := rfl
@[simp] theorem beginEvent_ctrlBase (s : State) : (beginEvent s).ctrlBase = s.ctrlBase := rfl
@[simp] theorem beginEvent_devBase (s : State) : (beginEvent s).devBase = s.devBase := rfl
@[simp] theorem beginEvent_regionBase (s : State) : (beginEvent s).regionBase = s.regionBase := rfl
@[simp] theorem beginEvent_regionSize (s : State) : (beginEvent s).regionSize = s.regionSize := rfl
@[simp] theorem beginEvent_blockSize (s : State) : (beginEvent s).blockSize = s.blockSize := rfl
@[simp] theorem beginEvent_tagLo (s : State) : (beginEvent s).tagLo = s.tagLo := rfl
@[simp] theorem beginEvent_tagHi (s : State) : (beginEvent s).tagHi = s.tagHi := rfl
@[simp] theorem beginEvent_totalBlocks (s : State) : (beginEvent s).totalBlocks = s.totalBlocks := rfl
@[simp] theorem beginEvent_attr (s : State) : (beginEvent s).attr = s.attr := rfl
@[simp] theorem beginEvent_seq (s : State) : (beginEvent s).seq = s.seq := rfl
@[simp] theorem beginEvent_chip (s : State) : (beginEvent s).chip = beginSequence s.platform s.chip := rfl
@[simp] theorem beginEvent_mem (s : State) : (beginEvent s).mem = s.mem := rfl
@[simp] theorem beginEvent_history (s : State) : (beginEvent s).history = s.history := rfl
@[simp] theorem beginEvent_readData (s : State) : (beginEvent s).readData = s.readData := rfl

/-! ### emitData -/

@[simp] theorem emitData_platform (a : Nat) (w : BitVec 32) (s : State) : (emitData a w s).platform = s.platform := rfl
@[simp] theorem emitData_inputs (a : Nat) (w : BitVec 32) (s : State) : (emitData a w s).inputs = s.inputs := rfl
@[simp] theorem emitData_draws (a : Nat) (w : BitVec 32) (s : State) : (emitData a w s).draws = s.draws := rfl
@[simp] theorem emitData_cmd (a : Nat) (w : BitVec 32) (s : State) : (emitData a w s).cmd = s.cmd := rfl
@[simp] theorem emitData_arg0 (a : Nat) (w : BitVec 32) (s : State) : (emitData a w s).arg0 = s.arg0 := rfl
@[simp] theorem emitData_arg1 (a : Nat) (w : BitVec 32) (s : State) : (emitData a w s).arg1 = s.arg1 := rfl
@[simp] theorem emitData_arg2 (a : Nat) (w : BitVec 32) (s : State) : (emitData a w s).arg2 = s.arg2 := rfl
@[simp] theorem emitData_arg3 (a : Nat) (w : BitVec 32) (s : State) : (emitData a w s).arg3 = s.arg3 := rfl
@[simp] theorem emitData_busy (a : Nat) (w : BitVec 32) (s : State) : (emitData a w s).busy = s.busy := rfl
@[simp] theorem emitData_lstate (a : Nat) (w : BitVec 32) (s : State) : (emitData a w s).lstate = s.lstate := rfl
@[simp] theorem emitData_halted (a : Nat) (w : BitVec 32) (s : State) : (emitData a w s).halted = s.halted := rfl
@[simp] theorem emitData_fault (a : Nat) (w : BitVec 32) (s : State) : (emitData a w s).fault = s.fault := rfl
@[simp] theorem emitData_resultCode (a : Nat) (w : BitVec 32) (s : State) :
    (emitData a w s).resultCode = s.resultCode := rfl
@[simp] theorem emitData_faultReason (a : Nat) (w : BitVec 32) (s : State) :
    (emitData a w s).faultReason = s.faultReason := rfl
@[simp] theorem emitData_result0 (a : Nat) (w : BitVec 32) (s : State) : (emitData a w s).result0 = s.result0 := rfl
@[simp] theorem emitData_result1 (a : Nat) (w : BitVec 32) (s : State) : (emitData a w s).result1 = s.result1 := rfl
@[simp] theorem emitData_retryCount (a : Nat) (w : BitVec 32) (s : State) :
    (emitData a w s).retryCount = s.retryCount := rfl
@[simp] theorem emitData_opcount (a : Nat) (w : BitVec 32) (s : State) : (emitData a w s).opcount = s.opcount := rfl
@[simp] theorem emitData_cmdset (a : Nat) (w : BitVec 32) (s : State) : (emitData a w s).cmdset = s.cmdset := rfl
@[simp] theorem emitData_ctrlBase (a : Nat) (w : BitVec 32) (s : State) : (emitData a w s).ctrlBase = s.ctrlBase := rfl
@[simp] theorem emitData_devBase (a : Nat) (w : BitVec 32) (s : State) : (emitData a w s).devBase = s.devBase := rfl
@[simp] theorem emitData_regionBase (a : Nat) (w : BitVec 32) (s : State) :
    (emitData a w s).regionBase = s.regionBase := rfl
@[simp] theorem emitData_regionSize (a : Nat) (w : BitVec 32) (s : State) :
    (emitData a w s).regionSize = s.regionSize := rfl
@[simp] theorem emitData_blockSize (a : Nat) (w : BitVec 32) (s : State) :
    (emitData a w s).blockSize = s.blockSize := rfl
@[simp] theorem emitData_tagLo (a : Nat) (w : BitVec 32) (s : State) : (emitData a w s).tagLo = s.tagLo := rfl
@[simp] theorem emitData_tagHi (a : Nat) (w : BitVec 32) (s : State) : (emitData a w s).tagHi = s.tagHi := rfl
@[simp] theorem emitData_totalBlocks (a : Nat) (w : BitVec 32) (s : State) :
    (emitData a w s).totalBlocks = s.totalBlocks := rfl
@[simp] theorem emitData_attr (a : Nat) (w : BitVec 32) (s : State) : (emitData a w s).attr = s.attr := rfl
@[simp] theorem emitData_seq (a : Nat) (w : BitVec 32) (s : State) : (emitData a w s).seq = s.seq := rfl
@[simp] theorem emitData_chip (a : Nat) (w : BitVec 32) (s : State) :
    (emitData a w s).chip = { s.chip with page := s.chip.page ++ [(a, w)] } := rfl
@[simp] theorem emitData_mem (a : Nat) (w : BitVec 32) (s : State) : (emitData a w s).mem = s.mem := rfl
@[simp] theorem emitData_history (a : Nat) (w : BitVec 32) (s : State) :
    (emitData a w s).history = s.history ++ [⟨s.history.length, .data, none, some (w.setWidth 64), some a, .ok⟩] := rfl
@[simp] theorem emitData_readData (a : Nat) (w : BitVec 32) (s : State) : (emitData a w s).readData = s.readData := rfl

/-! ### memWrite -/

@[simp] theorem memWrite_platform (a n v : Nat) (s : State) : (memWrite a n v s).platform = s.platform := rfl
@[simp] theorem memWrite_inputs (a n v : Nat) (s : State) : (memWrite a n v s).inputs = s.inputs := rfl
@[simp] theorem memWrite_draws (a n v : Nat) (s : State) : (memWrite a n v s).draws = s.draws := rfl
@[simp] theorem memWrite_cmd (a n v : Nat) (s : State) : (memWrite a n v s).cmd = s.cmd := rfl
@[simp] theorem memWrite_arg0 (a n v : Nat) (s : State) : (memWrite a n v s).arg0 = s.arg0 := rfl
@[simp] theorem memWrite_arg1 (a n v : Nat) (s : State) : (memWrite a n v s).arg1 = s.arg1 := rfl
@[simp] theorem memWrite_arg2 (a n v : Nat) (s : State) : (memWrite a n v s).arg2 = s.arg2 := rfl
@[simp] theorem memWrite_arg3 (a n v : Nat) (s : State) : (memWrite a n v s).arg3 = s.arg3 := rfl
@[simp] theorem memWrite_busy (a n v : Nat) (s : State) : (memWrite a n v s).busy = s.busy := rfl
@[simp] theorem memWrite_lstate (a n v : Nat) (s : State) : (memWrite a n v s).lstate = s.lstate := rfl
@[simp] theorem memWrite_halted (a n v : Nat) (s : State) : (memWrite a n v s).halted = s.halted := rfl
@[simp] theorem memWrite_fault (a n v : Nat) (s : State) : (memWrite a n v s).fault = s.fault := rfl
@[simp] theorem memWrite_resultCode (a n v : Nat) (s : State) : (memWrite a n v s).resultCode = s.resultCode := rfl
@[simp] theorem memWrite_faultReason (a n v : Nat) (s : State) : (memWrite a n v s).faultReason = s.faultReason := rfl
@[simp] theorem memWrite_result0 (a n v : Nat) (s : State) : (memWrite a n v s).result0 = s.result0 := rfl
@[simp] theorem memWrite_result1 (a n v : Nat) (s : State) : (memWrite a n v s).result1 = s.result1 := rfl
@[simp] theorem memWrite_retryCount (a n v : Nat) (s : State) : (memWrite a n v s).retryCount = s.retryCount := rfl
@[simp] theorem memWrite_opcount (a n v : Nat) (s : State) : (memWrite a n v s).opcount = s.opcount := rfl
@[simp] theorem memWrite_cmdset (a n v : Nat) (s : State) : (memWrite a n v s).cmdset = s.cmdset := rfl
@[simp] theorem memWrite_ctrlBase (a n v : Nat) (s : State) : (memWrite a n v s).ctrlBase = s.ctrlBase := rfl
@[simp] theorem memWrite_devBase (a n v : Nat) (s : State) : (memWrite a n v s).devBase = s.devBase := rfl
@[simp] theorem memWrite_regionBase (a n v : Nat) (s : State) : (memWrite a n v s).regionBase = s.regionBase := rfl
@[simp] theorem memWrite_regionSize (a n v : Nat) (s : State) : (memWrite a n v s).regionSize = s.regionSize := rfl
@[simp] theorem memWrite_blockSize (a n v : Nat) (s : State) : (memWrite a n v s).blockSize = s.blockSize := rfl
@[simp] theorem memWrite_tagLo (a n v : Nat) (s : State) : (memWrite a n v s).tagLo = s.tagLo := rfl
@[simp] theorem memWrite_tagHi (a n v : Nat) (s : State) : (memWrite a n v s).tagHi = s.tagHi := rfl
@[simp] theorem memWrite_totalBlocks (a n v : Nat) (s : State) : (memWrite a n v s).totalBlocks = s.totalBlocks := rfl
@[simp] theorem memWrite_attr (a n v : Nat) (s : State) : (memWrite a n v s).attr = s.attr := rfl
@[simp] theorem memWrite_seq (a n v : Nat) (s : State) : (memWrite a n v s).seq = s.seq := rfl
@[simp] theorem memWrite_chip (a n v : Nat) (s : State) : (memWrite a n v s).chip = s.chip := rfl
@[simp] theorem memWrite_mem (a n v : Nat) (s : State) : (memWrite a n v s).mem = writeBytes s.mem a n v := rfl
@[simp] theorem memWrite_history (a n v : Nat) (s : State) : (memWrite a n v s).history = s.history := rfl
@[simp] theorem memWrite_readData (a n v : Nat) (s : State) : (memWrite a n v s).readData = s.readData := rfl

/-! ### chipComplete -/

@[simp] theorem chipComplete_platform (k : Nat) (b : Bool) (s : State) :
    (chipComplete k b s).platform = s.platform := rfl
@[simp] theorem chipComplete_inputs (k : Nat) (b : Bool) (s : State) : (chipComplete k b s).inputs = s.inputs := rfl
@[simp] theorem chipComplete_draws (k : Nat) (b : Bool) (s : State) : (chipComplete k b s).draws = s.draws := rfl
@[simp] theorem chipComplete_cmd (k : Nat) (b : Bool) (s : State) : (chipComplete k b s).cmd = s.cmd := rfl
@[simp] theorem chipComplete_arg0 (k : Nat) (b : Bool) (s : State) : (chipComplete k b s).arg0 = s.arg0 := rfl
@[simp] theorem chipComplete_arg1 (k : Nat) (b : Bool) (s : State) : (chipComplete k b s).arg1 = s.arg1 := rfl
@[simp] theorem chipComplete_arg2 (k : Nat) (b : Bool) (s : State) : (chipComplete k b s).arg2 = s.arg2 := rfl
@[simp] theorem chipComplete_arg3 (k : Nat) (b : Bool) (s : State) : (chipComplete k b s).arg3 = s.arg3 := rfl
@[simp] theorem chipComplete_busy (k : Nat) (b : Bool) (s : State) : (chipComplete k b s).busy = s.busy := rfl
@[simp] theorem chipComplete_lstate (k : Nat) (b : Bool) (s : State) : (chipComplete k b s).lstate = s.lstate := rfl
@[simp] theorem chipComplete_halted (k : Nat) (b : Bool) (s : State) : (chipComplete k b s).halted = s.halted := rfl
@[simp] theorem chipComplete_fault (k : Nat) (b : Bool) (s : State) : (chipComplete k b s).fault = s.fault := rfl
@[simp] theorem chipComplete_resultCode (k : Nat) (b : Bool) (s : State) :
    (chipComplete k b s).resultCode = s.resultCode := rfl
@[simp] theorem chipComplete_faultReason (k : Nat) (b : Bool) (s : State) :
    (chipComplete k b s).faultReason = s.faultReason := rfl
@[simp] theorem chipComplete_result0 (k : Nat) (b : Bool) (s : State) : (chipComplete k b s).result0 = s.result0 := rfl
@[simp] theorem chipComplete_result1 (k : Nat) (b : Bool) (s : State) : (chipComplete k b s).result1 = s.result1 := rfl
@[simp] theorem chipComplete_retryCount (k : Nat) (b : Bool) (s : State) :
    (chipComplete k b s).retryCount = s.retryCount := rfl
@[simp] theorem chipComplete_opcount (k : Nat) (b : Bool) (s : State) : (chipComplete k b s).opcount = s.opcount := rfl
@[simp] theorem chipComplete_cmdset (k : Nat) (b : Bool) (s : State) : (chipComplete k b s).cmdset = s.cmdset := rfl
@[simp] theorem chipComplete_ctrlBase (k : Nat) (b : Bool) (s : State) :
    (chipComplete k b s).ctrlBase = s.ctrlBase := rfl
@[simp] theorem chipComplete_devBase (k : Nat) (b : Bool) (s : State) : (chipComplete k b s).devBase = s.devBase := rfl
@[simp] theorem chipComplete_regionBase (k : Nat) (b : Bool) (s : State) :
    (chipComplete k b s).regionBase = s.regionBase := rfl
@[simp] theorem chipComplete_regionSize (k : Nat) (b : Bool) (s : State) :
    (chipComplete k b s).regionSize = s.regionSize := rfl
@[simp] theorem chipComplete_blockSize (k : Nat) (b : Bool) (s : State) :
    (chipComplete k b s).blockSize = s.blockSize := rfl
@[simp] theorem chipComplete_tagLo (k : Nat) (b : Bool) (s : State) : (chipComplete k b s).tagLo = s.tagLo := rfl
@[simp] theorem chipComplete_tagHi (k : Nat) (b : Bool) (s : State) : (chipComplete k b s).tagHi = s.tagHi := rfl
@[simp] theorem chipComplete_totalBlocks (k : Nat) (b : Bool) (s : State) :
    (chipComplete k b s).totalBlocks = s.totalBlocks := rfl
@[simp] theorem chipComplete_attr (k : Nat) (b : Bool) (s : State) : (chipComplete k b s).attr = s.attr := rfl
@[simp] theorem chipComplete_seq (k : Nat) (b : Bool) (s : State) : (chipComplete k b s).seq = s.seq := rfl
@[simp] theorem chipComplete_chip (k : Nat) (b : Bool) (s : State) :
    (chipComplete k b s).chip = completeErase s.platform k b s.chip := rfl
@[simp] theorem chipComplete_mem (k : Nat) (b : Bool) (s : State) : (chipComplete k b s).mem = s.mem := rfl
@[simp] theorem chipComplete_history (k : Nat) (b : Bool) (s : State) : (chipComplete k b s).history = s.history := rfl
@[simp] theorem chipComplete_readData (k : Nat) (b : Bool) (s : State) :
    (chipComplete k b s).readData = s.readData := rfl

end Sys2Proof.Machine
end

