-- ==== Sys2Proof/Laws/Ops.lean ====
section
/-! SUPPORT. For each shared operation, one lemma that says what it can do; later proofs cite it. -/

namespace Sys2Proof.Machine

/-! ### What micro-steps keep -/

/-- The fields that no micro-step changes: the platform, the environment's script, CMD, the operands, LSTATE, the registers
that INIT and RELOCATE load, ATTR. -/
structure Kept (s t : State) : Prop where
  platform : t.platform = s.platform
  inputs : t.inputs = s.inputs
  draws : t.draws = s.draws
  cmd : t.cmd = s.cmd
  arg0 : t.arg0 = s.arg0
  arg1 : t.arg1 = s.arg1
  arg2 : t.arg2 = s.arg2
  arg3 : t.arg3 = s.arg3
  lstate : t.lstate = s.lstate
  cmdset : t.cmdset = s.cmdset
  ctrlBase : t.ctrlBase = s.ctrlBase
  devBase : t.devBase = s.devBase
  regionBase : t.regionBase = s.regionBase
  regionSize : t.regionSize = s.regionSize
  blockSize : t.blockSize = s.blockSize
  tagLo : t.tagLo = s.tagLo
  tagHi : t.tagHi = s.tagHi
  totalBlocks : t.totalBlocks = s.totalBlocks
  attr : t.attr = s.attr
  readData : t.readData = s.readData

theorem Kept.refl (s : State) : Kept s s := by constructor <;> rfl

theorem Kept.trans {s t u : State} (h : Kept s t) (g : Kept t u) : Kept s u where
  platform := g.platform.trans h.platform
  inputs := g.inputs.trans h.inputs
  draws := g.draws.trans h.draws
  cmd := g.cmd.trans h.cmd
  arg0 := g.arg0.trans h.arg0
  arg1 := g.arg1.trans h.arg1
  arg2 := g.arg2.trans h.arg2
  arg3 := g.arg3.trans h.arg3
  lstate := g.lstate.trans h.lstate
  cmdset := g.cmdset.trans h.cmdset
  ctrlBase := g.ctrlBase.trans h.ctrlBase
  devBase := g.devBase.trans h.devBase
  regionBase := g.regionBase.trans h.regionBase
  regionSize := g.regionSize.trans h.regionSize
  blockSize := g.blockSize.trans h.blockSize
  tagLo := g.tagLo.trans h.tagLo
  tagHi := g.tagHi.trans h.tagHi
  totalBlocks := g.totalBlocks.trans h.totalBlocks
  attr := g.attr.trans h.attr
  readData := g.readData.trans h.readData

theorem kept_goto (op : Instr) (k : Pos) (ses : Session) (s : State) : Kept s (goto op k ses s) := by
  constructor <;> rfl

theorem kept_finish (c : Status) (s : State) : Kept s (finish c s) := by constructor <;> rfl

theorem kept_finishResult (r : Word) (s : State) : Kept s (finishResult r s) := by constructor <;> rfl

theorem kept_fatal (s : State) : Kept s (fatal s) := by constructor <;> rfl

theorem kept_raise (r : FaultReason) (s : State) : Kept s (raise r s) := by constructor <;> rfl

theorem kept_configure (kind : EventKind) (reg value : Word) (p : Port) (ok : Bool) (s : State) :
    Kept s (configure kind reg value p ok s) := by constructor <;> rfl

theorem kept_emitCmd (d : Draw) (s : State) : Kept s (emitCmd d s) := by constructor <;> rfl

theorem kept_emitLoad (d : Draw) (s : State) : Kept s (emitLoad d s) := by constructor <;> rfl

theorem kept_emitWcfg (v : Word) (d : Draw) (s : State) : Kept s (emitWcfg v d s) := by constructor <;> rfl

theorem kept_emitData (a : Nat) (w : BitVec 32) (s : State) : Kept s (emitData a w s) := by constructor <;> rfl

theorem kept_emitFlush (d : Draw) (s : State) : Kept s (emitFlush d s) := by
  simp only [emitFlush]
  split <;> constructor <;> rfl

theorem kept_emitAddr (b : Nat) (d : Draw) (s : State) : Kept s (emitAddr b d s) := by constructor <;> rfl

theorem kept_emitLatch (b : Nat) (d : Draw) (s : State) : Kept s (emitLatch b d s) := by
  simp only [emitLatch]
  split <;> constructor <;> rfl

theorem kept_emitPoll (b o : Bool) (s : State) : Kept s (emitPoll b o s) := by constructor <;> rfl

theorem kept_memWrite (a n v : Nat) (s : State) : Kept s (memWrite a n v s) := by constructor <;> rfl

theorem kept_raiseOr {f : Option FaultReason} {go : State → State} {s : State} (h : Kept s (go s)) :
    Kept s (raiseOr f go s) := by
  cases f
  · exact h
  · exact kept_raise _ s

/-! ### raiseOr -/

/-- A check either raises its fault or lets the command go on. -/
theorem raiseOr_cases (f : Option FaultReason) (go : State → State) (s : State) :
    (∃ r, f = some r ∧ raiseOr f go s = raise r s) ∨ (f = none ∧ raiseOr f go s = go s) := by
  cases f with
  | none => exact .inr ⟨rfl, rfl⟩
  | some r => exact .inl ⟨r, rfl, rfl⟩

@[simp] theorem raiseOr_none (go : State → State) (s : State) : raiseOr none go s = go s := rfl

@[simp] theorem raiseOr_some (r : FaultReason) (go : State → State) (s : State) :
    raiseOr (some r) go s = raise r s := rfl

/-! ### Acceptance -/

/-- The state in which an accepted command's pseudocode starts (R351). -/
def acceptedState (i : Instr) (s : State) : State := { s with cmd := encode i, busy := true, opcount := 0 }

/-- Everything that a write of a command to CMD can do (R351). -/
theorem accept_cases (i : Instr) (start : Session → State → State) (s : State) :
    (s.fault = true ∧ accept i start s = s) ∨
    (s.fault = false ∧ s.busy = true ∧ accept i start s = hostFault .busy s) ∨
    (s.fault = false ∧ s.busy = false ∧ s.halted = true ∧
      accept i start s = { s with cmd := encode i, opcount := 0, resultCode := .unrecoverable }) ∨
    (s.fault = false ∧ s.busy = false ∧ s.halted = false ∧ ∃ r, lifecycleFault i s.lstate = some r ∧
      accept i start s = raise r { s with cmd := encode i }) ∨
    (s.fault = false ∧ s.busy = false ∧ s.halted = false ∧ lifecycleFault i s.lstate = none ∧
      accept i start s = start (snapshot s) (acceptedState i s)) := by
  unfold accept
  by_cases hf : s.fault = true
  · exact .inl ⟨hf, if_pos hf⟩
  · rw [if_neg hf]
    by_cases hb : s.busy = true
    · exact .inr (.inl ⟨by simpa using hf, hb, if_pos hb⟩)
    · rw [if_neg hb]
      by_cases hh : s.halted = true
      · exact .inr (.inr (.inl ⟨by simpa using hf, by simpa using hb, hh, if_pos hh⟩))
      · rw [if_neg hh]
        rcases raiseOr_cases (lifecycleFault i s.lstate)
          (fun t => start (snapshot t) { t with busy := true, opcount := 0 }) { s with cmd := encode i } with
          ⟨r, hl, h⟩ | ⟨hl, h⟩
        · exact .inr (.inr (.inr (.inl ⟨by simpa using hf, by simpa using hb, by simpa using hh, r, hl, h⟩)))
        · exact .inr (.inr (.inr (.inr ⟨by simpa using hf, by simpa using hb, by simpa using hh, hl, h⟩)))

/-- A command on a well-formed platform answers the state that acceptance gives. -/
theorem command_eq {i : Instr} {start : Session → State → State} {s : State} (h : s.platform.WF) :
    command i start s = .next (accept i start s) := if_pos h

/-- A command answers a next state only on a well-formed platform, and then the one acceptance gives. -/
theorem command_next {i : Instr} {start : Session → State → State} {s t : State} (h : command i start s = .next t) :
    s.platform.WF ∧ t = accept i start s := by
  unfold command at h
  split at h
  · next hw => exact ⟨hw, (Host.Outcome.next.inj h).symm⟩
  · cases h

/-- An accepted command starts its pseudocode (R351). -/
theorem command_accepted {i : Instr} {start : Session → State → State} {s : State} (hw : s.platform.WF)
    (hf : s.fault = false) (hb : s.busy = false) (hh : s.halted = false) (hl : lifecycleFault i s.lstate = none) :
    command i start s = .next (start (snapshot s) (acceptedState i s)) := by
  rw [command_eq hw, accept, if_neg (by simp [hf]), if_neg (by simp [hb]), if_neg (by simp [hh]), hl]
  rfl

@[simp] theorem acceptedState_platform (i : Instr) (s : State) : (acceptedState i s).platform = s.platform := rfl
@[simp] theorem acceptedState_devBase (i : Instr) (s : State) : (acceptedState i s).devBase = s.devBase := rfl
@[simp] theorem acceptedState_regionBase (i : Instr) (s : State) : (acceptedState i s).regionBase = s.regionBase := rfl
@[simp] theorem acceptedState_blockSize (i : Instr) (s : State) : (acceptedState i s).blockSize = s.blockSize := rfl
@[simp] theorem acceptedState_totalBlocks (i : Instr) (s : State) :
    (acceptedState i s).totalBlocks = s.totalBlocks := rfl

/-- The lifecycle lets INIT through in UNINIT, RELOCATE in READY, every other command in READY and RELOCATED (R369). -/
theorem lifecycleFault_none {i : Instr} {l : LState} :
    lifecycleFault i l = none ↔ (i = .init ↔ l = .uninit) ∧ (i = .relocate → l = .ready) := by
  cases i <;> cases l <;> simp [lifecycleFault]

/-! ### The pseudocode of each command keeps the registers that only INIT and RELOCATE load -/

theorem kept_nextByte (op : Instr) (ses : Session) (s : State) : Kept s (nextByte op ses s) := by
  unfold nextByte
  split
  · exact kept_finish _ s
  · exact kept_goto _ _ _ s

theorem kept_nextChunk (op : Instr) (ses : Session) (s : State) : Kept s (nextChunk op ses s) := by
  unfold nextChunk
  split
  · exact kept_finish _ s
  · exact kept_goto _ _ _ s

theorem kept_nextUnit (ses : Session) (s : State) : Kept s (nextUnit ses s) := by
  unfold nextUnit
  split
  · exact kept_finish _ s
  · exact kept_goto _ _ _ s

theorem kept_nextPair (ses : Session) (s : State) : Kept s (nextPair ses s) := kept_raiseOr (kept_goto _ _ _ s)

theorem kept_nextPairUnit (ses : Session) (s : State) : Kept s (nextPairUnit ses s) := by
  unfold nextPairUnit
  split
  · exact kept_nextPair _ s
  · exact kept_goto _ _ _ s

theorem kept_beginAttempt (k : Nat) (ses : Session) (s : State) : Kept s (beginAttempt k ses s) := by
  constructor <;> rfl

theorem kept_failAttempt (ses : Session) (s : State) : Kept s (failAttempt ses s) := by
  unfold failAttempt
  split
  · exact kept_finish _ s
  · exact kept_beginAttempt _ _ s

theorem kept_nextWord (op : Instr) (i : Nat) (ses : Session) (s : State) : Kept s (nextWord op i ses s) := by
  unfold nextWord
  split <;> exact kept_goto _ _ _ s

theorem kept_afterCopy (op : Instr) (ses : Session) (s : State) : Kept s (afterCopy op ses s) := by
  cases op <;> first | exact kept_nextByte _ _ s | exact kept_finish _ s

theorem kept_afterProgram (op : Instr) (st : Status) (ses : Session) (s : State) :
    Kept s (afterProgram op st ses s) := by
  cases op
  case write =>
    show Kept s (contWrite st ses s)
    unfold contWrite
    split
    · exact kept_fatal s
    · exact kept_nextChunk _ _ s
  case fvbWrite =>
    show Kept s (contFvbWrite st ses s)
    unfold contFvbWrite
    split
    · exact kept_fatal s
    · exact kept_nextChunk _ _ s
  all_goals exact kept_finish _ s

theorem kept_afterErase (op : Instr) (st : Status) (ses : Session) (s : State) : Kept s (afterErase op st ses s) := by
  cases op
  case erase =>
    show Kept s (contErase st ses s)
    unfold contErase
    split
    · exact kept_fatal s
    · exact kept_nextUnit _ s
  case eraseBlocks =>
    show Kept s (contEraseBlocks st ses s)
    unfold contEraseBlocks
    split
    · exact kept_fatal s
    · exact kept_nextPairUnit _ s
  case eraseBlockRetry =>
    show Kept s (contEraseBlockRetry st ses s)
    unfold contEraseBlockRetry
    split
    · exact kept_goto _ _ _ s
    · exact kept_failAttempt _ s
  all_goals exact kept_finish _ s

theorem kept_contPoll (b o : Bool) (ses : Session) (s : State) : Kept s (contPoll b o ses s) := by
  unfold contPoll
  split
  · split
    · exact kept_failAttempt _ s
    · exact kept_goto _ _ _ s
  · split
    · exact kept_finish _ s
    · exact kept_failAttempt _ s

theorem kept_contListLba (l : Nat) (ses : Session) (s : State) : Kept s (contListLba l ses s) := by
  unfold contListLba
  split
  · exact kept_finish _ s
  · exact kept_raiseOr (kept_goto _ _ _ s)

theorem kept_contListNum (n : Nat) (ses : Session) (s : State) : Kept s (contListNum n ses s) := by
  simp only [contListNum]
  split
  · exact kept_nextPairUnit _ s
  · exact kept_nextPair _ s

theorem kept_contGetDevices (ses : Session) (s : State) : Kept s (contGetDevices ses s) := by
  unfold contGetDevices
  split
  · exact kept_goto _ _ _ s
  · exact kept_finishResult _ s

/-- No micro-step changes a register that only the host, INIT or RELOCATE writes. -/
theorem kept_microAt (op : Instr) (k : Pos) (ses : Session) (d : Draw) (s : State) : Kept s (microAt op k ses d s) := by
  cases k <;> simp only [microAt]
  case winRead => exact kept_goto _ _ _ s
  case memWrite => exact (kept_memWrite _ _ _ s).trans (kept_afterCopy _ _ _)
  case ppFetch => exact kept_goto _ _ _ s
  case ppData => exact (kept_emitData _ _ s).trans (kept_nextWord _ _ _ _)
  case poll => exact (kept_emitPoll _ _ s).trans (kept_contPoll _ _ _ _)
  case listLba => exact kept_contListLba _ _ s
  case listNum => exact kept_contListNum _ _ s
  case record => exact (kept_memWrite _ _ _ s).trans (kept_contGetDevices _ _)
  case ppCmd =>
    split
    · exact (kept_emitCmd d s).trans (kept_goto _ _ _ _)
    · exact (kept_emitCmd d s).trans (kept_afterProgram _ _ _ _)
  case ppLoad =>
    split
    · exact (kept_emitLoad d s).trans (kept_goto _ _ _ _)
    · exact (kept_emitLoad d s).trans (kept_afterProgram _ _ _ _)
  case ppWe =>
    split
    · exact (kept_emitWcfg _ d s).trans (kept_nextWord _ _ _ _)
    · exact (kept_emitWcfg _ d s).trans (kept_afterProgram _ _ _ _)
  case ppFlush =>
    split
    · exact (kept_emitFlush d s).trans (kept_goto _ _ _ _)
    · exact (kept_emitFlush d s).trans (kept_afterProgram _ _ _ _)
  case ppClear =>
    split <;> exact (kept_emitWcfg _ d s).trans (kept_afterProgram _ _ _ _)
  case esCmd =>
    split
    · exact (kept_emitCmd d s).trans (kept_goto _ _ _ _)
    · exact (kept_emitCmd d s).trans (kept_afterErase _ _ _ _)
  case esLoad =>
    split
    · exact (kept_emitLoad d s).trans (kept_goto _ _ _ _)
    · exact (kept_emitLoad d s).trans (kept_afterErase _ _ _ _)
  case esAddr =>
    split
    · exact (kept_emitAddr _ d s).trans (kept_goto _ _ _ _)
    · exact (kept_emitAddr _ d s).trans (kept_afterErase _ _ _ _)
  case esLatch =>
    split <;> exact (kept_emitLatch _ d s).trans (kept_afterErase _ _ _ _)

/-- The same for the sequencer's next micro-step. -/
theorem kept_microStep (d : Draw) (s : State) : Kept s (microStep d s) := by
  unfold microStep
  split
  · exact Kept.refl s
  · exact kept_microAt _ _ _ d s

/-- The same for any number of micro-steps. -/
theorem kept_runMicro (ds : List Draw) (s : State) : Kept s (runMicro ds s) := by
  induction ds generalizing s with
  | nil => exact Kept.refl s
  | cons d r ih => exact (kept_microStep d s).trans (ih _)

theorem runMicro_append (ds es : List Draw) (s : State) : runMicro (ds ++ es) s = runMicro es (runMicro ds s) := by
  induction ds generalizing s with
  | nil => rfl
  | cons d r ih => exact ih _

/-! ### One step -/

/-- A step answers a next state only on a well-formed platform: the block's own move when the script is empty, otherwise
the move of its first input. -/
theorem step_cases {s t : State} (h : step s = .next t) :
    s.platform.WF ∧ ((s.inputs = [] ∧ t = autonomous s) ∨
      ∃ e rest, s.inputs = e :: rest ∧ move e { s with inputs := rest } = .next t) := by
  unfold step at h
  split at h
  · next hw =>
    refine ⟨hw, ?_⟩
    split at h
    · next hi => exact .inl ⟨hi, (Host.Outcome.next.inj h).symm⟩
    · next e rest hi => exact .inr ⟨e, rest, hi, h⟩
  · cases h

/-- The step that takes an input is that input's move. -/
theorem step_input {s : State} {e : Input} {rest : List Input} (hw : s.platform.WF) (hi : s.inputs = e :: rest) :
    step s = move e { s with inputs := rest } := by
  unfold step
  rw [if_pos hw, hi]

/-- The block's own moves: nothing to do, a completion of a pending unit, or a micro-step. -/
theorem autonomous_cases (s : State) :
    autonomous s = s ∨
    (∃ k b, k ∈ s.chip.pending ∧ autonomous s = chipComplete k b { s with draws := s.draws + 1 }) ∨
    ∃ d, autonomous s = microStep d { s with draws := s.draws + 1 } := by
  unfold autonomous
  split
  · exact .inl rfl
  · dsimp only
    split
    · next h =>
      refine .inr (.inl ⟨_, _, ?_, rfl⟩)
      have hlen : 0 < s.chip.pending.length := List.length_pos_iff.mpr h.2
      have hi := Nat.mod_lt (Config.chipDraw s.draws).index hlen
      rw [List.getD_eq_getElem _ _ hi]
      exact List.getElem_mem hi
    · exact .inr (.inr ⟨_, rfl⟩)

/-- What the poll of STATUS does: read it when idle, otherwise a move of the block with the poll put back. -/
theorem awaitIdle_cases (ds : List Draw) (s : State) :
    (s.busy = false ∧ awaitIdle ds s = { s with readData := statusWord s }) ∨
    (s.busy = true ∧ ∃ t es, awaitIdle ds s = { t with inputs := .awaitIdle es :: t.inputs } ∧
      (t = autonomous s ∨ ∃ d, t = microStep d s)) := by
  unfold awaitIdle
  cases hb : s.busy
  · exact .inl ⟨rfl, rfl⟩
  · refine .inr ⟨rfl, ?_⟩
    cases ds with
    | nil => exact ⟨_, _, rfl, .inl rfl⟩
    | cons d r => exact ⟨_, _, rfl, .inr ⟨d, rfl⟩⟩

end Sys2Proof.Machine
end

