-- ==== Sys2Proof/Laws/PerInstr.lean ====
section
/-! SUPPORT. A statement about every command as syntax, one lemma per constructor. -/

namespace Sys2Proof.Laws

/-- Every word whose bits 7:0 are the command's opcode decodes to the command, its encoding among them (R140, R141). -/
def DecodesFromEveryWord.Statement (i : Instr) : Prop :=
  (∀ v : Word, opField v = opcode i → decode v = .ok i) ∧ decode (encode i) = .ok i

theorem DecodesFromEveryWord.init : DecodesFromEveryWord.Statement .init :=
  ⟨fun v h => by rw [decode, h]; rfl, by decide⟩

theorem DecodesFromEveryWord.read : DecodesFromEveryWord.Statement .read :=
  ⟨fun v h => by rw [decode, h]; rfl, by decide⟩

theorem DecodesFromEveryWord.writeChunk : DecodesFromEveryWord.Statement .writeChunk :=
  ⟨fun v h => by rw [decode, h]; rfl, by decide⟩

theorem DecodesFromEveryWord.write : DecodesFromEveryWord.Statement .write :=
  ⟨fun v h => by rw [decode, h]; rfl, by decide⟩

theorem DecodesFromEveryWord.eraseSingleBlock : DecodesFromEveryWord.Statement .eraseSingleBlock :=
  ⟨fun v h => by rw [decode, h]; rfl, by decide⟩

theorem DecodesFromEveryWord.erase : DecodesFromEveryWord.Statement .erase :=
  ⟨fun v h => by rw [decode, h]; rfl, by decide⟩

theorem DecodesFromEveryWord.getDevices : DecodesFromEveryWord.Statement .getDevices :=
  ⟨fun v h => by rw [decode, h]; rfl, by decide⟩

theorem DecodesFromEveryWord.eraseBlockRetry : DecodesFromEveryWord.Statement .eraseBlockRetry :=
  ⟨fun v h => by rw [decode, h]; rfl, by decide⟩

theorem DecodesFromEveryWord.getBlockSize : DecodesFromEveryWord.Statement .getBlockSize :=
  ⟨fun v h => by rw [decode, h]; rfl, by decide⟩

theorem DecodesFromEveryWord.fvbRead : DecodesFromEveryWord.Statement .fvbRead :=
  ⟨fun v h => by rw [decode, h]; rfl, by decide⟩

theorem DecodesFromEveryWord.fvbWrite : DecodesFromEveryWord.Statement .fvbWrite :=
  ⟨fun v h => by rw [decode, h]; rfl, by decide⟩

theorem DecodesFromEveryWord.eraseBlocks : DecodesFromEveryWord.Statement .eraseBlocks :=
  ⟨fun v h => by rw [decode, h]; rfl, by decide⟩

theorem DecodesFromEveryWord.getAttributes : DecodesFromEveryWord.Statement .getAttributes :=
  ⟨fun v h => by rw [decode, h]; rfl, by decide⟩

theorem DecodesFromEveryWord.setAttributes : DecodesFromEveryWord.Statement .setAttributes :=
  ⟨fun v h => by rw [decode, h]; rfl, by decide⟩

theorem DecodesFromEveryWord.getPhysicalAddress : DecodesFromEveryWord.Statement .getPhysicalAddress :=
  ⟨fun v h => by rw [decode, h]; rfl, by decide⟩

theorem DecodesFromEveryWord.relocate : DecodesFromEveryWord.Statement .relocate :=
  ⟨fun v h => by rw [decode, h]; rfl, by decide⟩

end Sys2Proof.Laws
end

