-- ==== Sys2Proof/Tests/Slice0.lean ====
section
/-! SUPPORT. The model's own tests: what WellFormed refuses, the command words written out from 30_encoding.md R140 and
R141, one or two steps per command with the results of the spec's examples, and for every obligation with hypotheses a
state and operands that meet them all. -/

namespace Sys2Proof.Tests

open Sys2Proof Sys2Proof.Machine

/-! ### Helpers -/

/-- The next state of an answer, or the reset state. -/
def after (r : Result) : State :=
  match r with
  | .next t => t
  | .fault _ => State.reset
  | .refused _ => State.reset

/-- Configuration EX after INIT, as the spec's vectors start. -/
def exReady : State := after (exec .init State.reset)

/-- The same in ASYNC mode with an empty, erased chip. -/
def exAsync : State :=
  { exReady with
    platform := { Platform.ex with eraseCompletion := .async }
    chip := { Chip.initial with flash := [] } }

/-- The same in IMMEDIATE mode with an erased chip. -/
def exErased : State := { exReady with chip := { Chip.initial with flash := [] } }

/-- `s` with its four operands. -/
def withArgs (a0 a1 a2 a3 : Nat) (s : State) : State :=
  { s with arg0 := wordOf a0, arg1 := wordOf a1, arg2 := wordOf a2, arg3 := wordOf a3 }

/-- `s` while command `op` is at position `k`. -/
def running (op : Instr) (k : Pos) (ses : Session) (s : State) : State := { s with busy := true, seq := .active op k ses }

/-- A session with a cursor, a buffer and a count. -/
def session (addr buf rem : Nat) : Session := { snapshot exReady with addr := addr, buf := buf, rem := rem }

/-- A draw answered OK. -/
def good : Draw := ⟨true, 0x5A, false, true⟩

/-- A draw answered ERROR. -/
def bad : Draw := ⟨false, 0x5A, false, false⟩

/-! ### Well-formedness: one ill-formed term for each check -/

theorem test_ex_is_well_formed : Platform.ex.WF := by decide

/-- A platform that well-formedness refuses. -/
def refuses (p : Platform) : Bool := decide (¬ p.WF)

/-- EX with another configuration record. -/
def exCfg (f : Cfg → Cfg) : Platform := { Platform.ex with cfg := f Platform.ex.cfg }

/-- EX at 32 bits with no configuration present, so that only widths are checked. -/
def ex32 (f : Cfg → Cfg) : Platform :=
  { Platform.ex with width := .w32, cfg := f { Platform.ex.cfg with present := false } }

theorem test_no_unit_refused : refuses (exCfg fun c => { c with blockSize := 0 }) = true := by decide

theorem test_empty_window_refused : refuses { Platform.ex with flashSize := 0 } = true := by decide

theorem test_partial_unit_window_refused : refuses { Platform.ex with flashSize := 0x2000001 } = true := by decide

theorem test_window_past_end_refused :
    refuses (exCfg fun c => { c with devBase := 0xFFFFFFFFFE010000 }) = true := by decide

theorem test_region_below_window_refused : refuses (exCfg fun c => { c with regionBase := 0x0FFF0000 }) = true := by
  decide

theorem test_region_past_window_refused : refuses (exCfg fun c => { c with regionSize := 0x1000001 }) = true := by decide

theorem test_unaligned_region_refused :
    refuses (exCfg fun c => { c with regionBase := 0x10000001, regionSize := 1 }) = true := by decide

theorem test_port_overflow_refused : refuses (exCfg fun c => { c with ctrlBase := 0xFFFFFFFFFFFFFFE0 }) = true := by
  decide

/-- The widths of R56 and the positive POLL_LIMIT of R13; the same platform with every field fitting is accepted. -/
theorem test_wide_values_refused :
    refuses (ex32 fun c => { c with ctrlBase := 0x100000000 }) = true ∧
    refuses (ex32 fun c => { c with devBase := 0x100000000 }) = true ∧
    refuses (ex32 fun c => { c with regionBase := 0x100000000 }) = true ∧
    refuses (ex32 fun c => { c with regionSize := 0x100000000 }) = true ∧
    refuses (ex32 fun c => { c with blockSize := 0x100000000 }) = true ∧
    refuses { Platform.ex with pollLimit := some 0 } = true ∧ refuses (ex32 id) = false := by decide

/-- A bank whose last register would lie at 2^W, and host memory that would end past 2^W (R10, R80); one byte less is
accepted. -/
theorem test_address_past_end_refused :
    refuses { Platform.ex with blockBase := 2 ^ 64 - 0x98 } = true ∧
    refuses { Platform.ex with blockBase := 2 ^ 64 - 0xA0 } = false ∧
    refuses { Platform.ex with hostRanges := [(2 ^ 64 - 4, 5)] } = true ∧
    refuses { Platform.ex with hostRanges := [(2 ^ 64 - 4, 4)] } = false := by decide

/-- R57 asks nothing of the geometry while there is no configuration. -/
theorem test_absent_configuration_is_well_formed :
    refuses (exCfg fun c => { c with present := false, blockSize := 0 }) = false := by decide

/-- A line with too few operands, with too many, and with one that does not fit (R162). -/
theorem test_ill_formed_lines :
    Line.WF Platform.ex ⟨.read, [1, 2, 3]⟩ ∧ ¬ Line.WF Platform.ex ⟨.read, [1, 2]⟩ ∧
    ¬ Line.WF Platform.ex ⟨.init, [1]⟩ ∧ ¬ Line.WF Platform.ex ⟨.getBlockSize, [2 ^ 64]⟩ := by decide

/-- A step on an ill-formed platform is refused. -/
theorem test_ill_formed_platform_refused :
    ∃ r, step { State.reset with platform := { Platform.ex with flashSize := 0 } } = .refused r := ⟨_, rfl⟩

/-! ### Command words, written out from R140 and R141 -/

theorem test_decode_sequencer_words :
    decode 0b0000000000000000000000000000000000000000000000000000000000000001#64 = .ok .init ∧
    decode 0b0000000000000000000000000000000000000000000000000000000000000010#64 = .ok .read ∧
    decode 0b1111111111111111111111111111111111111111111111111111111100000011#64 = .ok .writeChunk ∧
    decode 0b0000000000000000000000000000000000000000000000000000000100000100#64 = .ok .write ∧
    decode 0b0000000000000000000000000000000000000000000000000000000000000101#64 = .ok .eraseSingleBlock ∧
    decode 0b1000000000000000000000000000000000000000000000000000000000000110#64 = .ok .erase ∧
    decode 0b0000000000000000000000000000000000000000000000000000000000000111#64 = .ok .getDevices := by decide

theorem test_decode_retry_word :
    decode 0b0000000000000000000000000000000000000000000000000000000000001000#64 = .ok .eraseBlockRetry := by decide

theorem test_decode_translator_words :
    decode 0b0000000000000000000000000000000000000000000000000000000000010000#64 = .ok .getBlockSize ∧
    decode 0b0000000000000000000000000000000000000000000000000000000000010001#64 = .ok .fvbRead ∧
    decode 0b0000000000000000000000000000000000000000000000000101010100010010#64 = .ok .fvbWrite ∧
    decode 0b0000000000000000000000000000000000000000000000000000000000010011#64 = .ok .eraseBlocks ∧
    decode 0b0000000000000000000000000000000000000000000000000000000000010100#64 = .ok .getAttributes ∧
    decode 0b0000000000000000000000000000000000000000000000000000000000010101#64 = .ok .setAttributes ∧
    decode 0b0000000000000000000000000000000000000000000000000000000000010110#64 = .ok .getPhysicalAddress := by decide

theorem test_decode_relocate_word :
    decode 0b0000000000000000000000000000000000000000000000000000000000100000#64 = .ok .relocate := by decide

/-- The ends of the reserved ranges (R143). -/
theorem test_decode_reserved_words :
    decode 0x00#64 = .error (.reservedOpcode 0x00) ∧ decode 0x09#64 = .error (.reservedOpcode 0x09) ∧
    decode 0x0F#64 = .error (.reservedOpcode 0x0F) ∧ decode 0x17#64 = .error (.reservedOpcode 0x17) ∧
    decode 0x1F#64 = .error (.reservedOpcode 0x1F) ∧ decode 0x21#64 = .error (.reservedOpcode 0x21) ∧
    decode 0xFF#64 = .error (.reservedOpcode 0xFF) ∧ decode 0x100#64 = .error (.reservedOpcode 0x00) := by decide

theorem test_decode_table_word : decodeTableWord 8 0x12 = some .fvbWrite ∧ decodeTableWord 64 0xFF10 = some .getBlockSize ∧
    decodeTableWord 8 0x21 = none := by decide

/-- A placed word is what the next step runs. -/
theorem test_placed_word_runs : (after (step (State.reset.withFetchWord 8 0x01))).lstate = .ready := by decide

/-! ### One step per command, with the results the spec gives -/

/-- R201's example: CMDSET = 0x02D806, TOTAL_BLOCKS = 256. -/
theorem test_init : exReady.cmdset = 0x02D806 ∧ exReady.totalBlocks = 256 ∧ statusWord exReady = 0x2 := by decide

/-- V-vector of R202: a missing configuration; LSTATE stays UNINIT. -/
theorem test_init_without_configuration :
    statusWord (after (exec .init { State.reset with
      platform := { Platform.ex with cfg := { Platform.ex.cfg with present := false } } })) = 0x400 := by decide

/-- R204: a READ outside the window faults F_WINDOW; STATUS = 0x0008_0012. -/
theorem test_read_outside_window :
    statusWord (after (exec .read (withArgs 0x12000000 0x80000000 1 0 exReady))) = 0x80012 := by decide

/-- R90, R102: the byte in flight of an erased window byte is 0xFF. -/
theorem test_read_erased_byte :
    (match (microStep good (running .read .winRead (session 0x11000000 0x80000000 1) exErased)).seq with
    | .idle => 0
    | .active _ _ ses => ses.datum) = 0xFF := by decide

/-- R212: 260 bytes are too many. -/
theorem test_writeChunk_too_long :
    (after (exec .writeChunk (withArgs 0x11010000 0x80000000 260 0 exReady))).resultCode = .invalidParameter := by decide

/-- R212's example: host bytes 11 22 33 44 are the data word 0x44332211. -/
theorem test_writeChunk_data_word :
    (match (microStep good (running .writeChunk .ppFetch (session 0x11010000 0x80000000 8)
        { exReady with mem := writeBytes [] 0x80000000 4 0x44332211 })).seq with
    | .idle => 0
    | .active _ _ ses => ses.datum) = 0x44332211 ∧
    readByte (writeBytes [] 0x80000000 4 0x44332211) 0x80000000 = 0x11 := by decide

/-- R217: an unaligned length. -/
theorem test_write_unaligned_length :
    (after (exec .write (withArgs 0x11010000 0x80000000 10 0 exReady))).resultCode = .invalidParameter := by decide

/-- R215: a write of no bytes succeeds at once. -/
theorem test_write_nothing :
    statusWord (after (exec .write (withArgs 0x11010000 0x80000000 0 0 exReady))) = 0x2 := by decide

/-- R223: the first event of the example's sequence. -/
theorem test_eraseSingleBlock_first_event :
    (microStep good (after (exec .eraseSingleBlock (withArgs 0x11050000 0 0 0 exReady)))).history =
      [⟨0, .cfgCmd, some 0x02, some 0xC1, some 0x20000000, .ok⟩] := by decide

/-- R225's example: 0x18000 is no whole number of units. -/
theorem test_erase_partial_unit :
    (after (exec .erase (withArgs 0x11050000 0x18000 0 0 exReady))).resultCode = .invalidParameter := by decide

/-- R226: an ERROR answer in the middle of ERASE halts the block; STATUS = 0x50A. -/
theorem test_erase_error_halts :
    statusWord (microStep bad (running .erase .esAddr (session 0x11050000 0 2) exReady)) = 0x50A := by decide

/-- R230: the last field written, RESULT0 is 1. -/
theorem test_getDevices_last_field :
    (microStep good (running .getDevices .record
      { session 0 0x80000000 0 with idx := 5 } exReady)).result0 = 1 := by decide

/-- R261: the first attempt is counted before its first event. -/
theorem test_eraseBlockRetry_first_attempt :
    (after (exec .eraseBlockRetry (withArgs 0x11000000 0 0 0 exReady))).retryCount = 1 := by decide

/-- R264: the tenth failed attempt ends the command with DEVICE_ERROR; STATUS = 0x202. -/
theorem test_eraseBlockRetry_exhausted :
    statusWord (microStep bad (running .eraseBlockRetry .esCmd
      { session 0x11000000 0 1 with attempt := 10 } exReady)) = 0x202 := by decide

/-- The vectors of 95_test_vectors.md 2.1: `GET_BLOCK_SIZE 100`. -/
theorem test_getBlockSize :
    (after (exec .getBlockSize (withArgs 100 0 0 0 exReady))).result0 = 0x10000 ∧
    (after (exec .getBlockSize (withArgs 100 0 0 0 exReady))).result1 = 156 := by decide

/-- The vectors of 95_test_vectors.md 2.1: `GET_BLOCK_SIZE 256`. -/
theorem test_getBlockSize_out_of_range :
    statusWord (after (exec .getBlockSize (withArgs 256 0 0 0 exReady))) = 0x102 := by decide

/-- R285's example: `FVB_READ 0, 0xFFFD, 4` crosses the block's end. -/
theorem test_fvbRead_past_block :
    (after (exec .fvbRead (withArgs 0 0xFFFD 4 0x80000000 exReady))).resultCode = .invalidParameter := by decide

/-- R286's example: FVB_WRITE into block 1 starts at 0x1101_0000. -/
theorem test_fvbWrite_address :
    (match (after (exec .fvbWrite (withArgs 1 0 300 0x80000000 exReady))).seq with
    | .idle => 0
    | .active _ _ ses => ses.addr) = 0x11010000 := by decide

/-- R160: a terminator in the first LBA position ends the list; the command succeeds. -/
theorem test_eraseBlocks_empty_list :
    statusWord (microStep good (running .eraseBlocks .listLba (session 0 0x80000200 0)
      { exReady with mem := writeBytes [] 0x80000200 8 (2 ^ 64 - 1) })) = 0x2 := by decide

/-- R294's example: the upper half of the operand is ignored. -/
theorem test_setAttributes :
    (after (exec .setAttributes (withArgs 0xFFFFFFFF00000003 0 0 0 exReady))).attr = 0x3 ∧
    (after (exec .setAttributes (withArgs 0xFFFFFFFF00000003 0 0 0 exReady))).result0 = 0x3 := by decide

/-- R293's example. -/
theorem test_getAttributes : (after (exec .getAttributes { exReady with attr := 5 })).result0 = 5 := by decide

/-- R296's example. -/
theorem test_getPhysicalAddress : (after (exec .getPhysicalAddress exReady)).result0 = 0x11000000 := by decide

/-- R330's example: STATUS reads 0x4. -/
theorem test_relocate :
    (after (exec .relocate (withArgs 0xFFFF000020000000 0 0 0 exReady))).ctrlBase = 0xFFFF000020000000 ∧
    statusWord (after (exec .relocate (withArgs 0xFFFF000020000000 0 0 0 exReady))) = 0x4 := by decide

/-- R330: a base whose ports overflow; F_OVERFLOW. -/
theorem test_relocate_overflow :
    statusWord (after (exec .relocate (withArgs 0xFFFFFFFFFFFFFFE0 0 0 0 exReady))) = 0x70012 := by decide

/-- R147's example: faulted with F_NOT_READY in UNINIT. -/
theorem test_not_ready : statusWord (after (exec .read State.reset)) = 0x40010 := by decide

/-! ### Ends of a run (R396) -/

/-- The reset state with the script of a program of two lines. -/
def exProgram : State :=
  { State.reset with
    inputs := lineInputs Platform.ex ⟨.init, []⟩ [] ++ lineInputs Platform.ex ⟨.getBlockSize, [100]⟩ [] }

/-- The program of that script. -/
def twoLines : List Line := [⟨.init, []⟩, ⟨.getBlockSize, [100]⟩]

/-- The state after the last command write, with only the last wait to come. -/
def exEnd : State := after (step (after (step (after (step (after (step exProgram)))))))

/-- The run has its normal end after its last command and not between its two commands. -/
theorem test_program_ends :
    normalEnd twoLines exProgram exEnd ∧ ¬ normalEnd twoLines exProgram (after (step exProgram)) ∧
    exEnd.result1 = 156 :=
  ⟨⟨⟨by decide, ⟨4, rfl⟩, by decide⟩, by decide⟩, fun h => absurd h.1.2.2 (by decide), by decide⟩

/-- A program may go on after a reset, as P4 of 95_test_vectors.md does; a reset after the last command is no part of its
run. -/
theorem test_reset_inside_program :
    StartsProgram twoLines { exProgram with inputs := .blockReset :: exProgram.inputs } ∧
    ¬ StartsProgram twoLines { exProgram with inputs := exProgram.inputs ++ [.blockReset] } := by decide

/-- The reset state ends no program's run that begins in it: no program is in its script. -/
theorem test_reset_ends_nothing (prog : List Line) (t : State) : ¬ normalEnd prog State.reset t := by
  rintro ⟨⟨⟨hne, _, hm, _⟩, _⟩, _⟩
  cases prog with
  | nil => exact hne rfl
  | cons l r => simp [programMoves, State.reset] at hm

/-! ### Witnesses: for each obligation with hypotheses, a state and operands that meet them all together -/

/-- The reset state on another platform. -/
def resetOn (p : Platform) : State := { State.reset with platform := p }

/-- `s` with its script of inputs. -/
def withInputs (l : List Input) (s : State) : State := { s with inputs := l }

/-- A faulted block: INIT a second time. -/
def exFaulted : State := after (exec .init exReady)

/-- A halted block: an erase answered ERROR. -/
def exHalted : State := microStep bad (running .erase .esCmd (session 0x11000000 0 1) exReady)

/-- A relocated block. -/
def exRelocated : State := after (exec .relocate exReady)

/-- A chip with an erase pending. -/
def exPending : State := { exAsync with chip := { exAsync.chip with pending := [5] } }

/-- An undefined chip. -/
def exUndefined : State := { exReady with chip := { exReady.chip with undef := true } }

/-- The ends of the four reserved ranges (ReservedOpcodeFaults), and the platform of every register statement. -/
theorem test_witness_reserved_opcode :
    exReady.platform.BankOk ∧
    (0x100#64).toNat % 256 = 0x00 ∧ (0x09 ≤ (0x09#64).toNat % 256 ∧ (0x0F#64).toNat % 256 ≤ 0x0F) ∧
    (0x17 ≤ (0x17#64).toNat % 256 ∧ (0x1F#64).toNat % 256 ≤ 0x1F) ∧ 0x21 ≤ (0x21#64).toNat % 256 := by decide

/-- ProgramLineLoadsOperandsThenRuns. -/
theorem test_witness_program_line : ∃ (s : State) (l : Line) (ds : List Draw) (rest : List Input),
    s.platform.WF ∧ l.WF s.platform ∧ s.fault = false ∧ s.busy = false ∧
    s.inputs = lineInputs s.platform l ds ++ rest :=
  ⟨withInputs (lineInputs Platform.ex ⟨.read, [0x11000000, 0x80000000, 4]⟩ [good]) exReady,
    ⟨.read, [0x11000000, 0x80000000, 4]⟩, [good], [], by decide⟩

/-- What a line encodes to (R162). -/
theorem test_line_inputs :
    lineInputs Platform.ex ⟨.eraseSingleBlock, [0x11000000]⟩ [] =
      [.hostWrite 0x40000008 8 0x11000000, .hostWrite 0x40000000 8 0x05, .awaitIdle []] := by decide

/-- StepRunsDecodedCommand. -/
theorem test_witness_step_runs : ∃ (s : State) (v : Word) (i : Instr) (rest : List Input),
    s.platform.WF ∧ decode v = .ok i ∧ s.inputs = .hostWrite (s.platform.blockBase + 0x000) 8 v :: rest ∧
    decodeTableWord 8 0x02 = some i :=
  ⟨withInputs [.hostWrite 0x40000000 8 0x202] exReady, 0x202, .read, [], by decide⟩

/-- RegisterReadHasNoSideEffect and ArgumentWriteStoresOrFaults: a member of a list is its own witness; the last row of
each. -/
theorem test_witness_register_rows :
    (0x098, wordOf exReady.attr.toNat) ∈ [(0x000, exReady.cmd), (0x098, wordOf exReady.attr.toNat)] ∧
    (0x020, withArgs 0 0 0 7 exReady) ∈ [(0x008, withArgs 7 0 0 0 exReady), (0x020, withArgs 0 0 0 7 exReady)] := by
  decide

/-- WrongHostAccessFaults: a narrow access at a listed offset, a misaligned one, the first unlisted offset, the last address
and the first number past it. -/
theorem test_witness_wrong_access :
    let base := exReady.platform.blockBase
    let limit := exReady.platform.limit
    (base + 0x000 < limit ∧ (4 ≠ 8 ∨ 0x000 % 8 ≠ 0 ∨ 0x0A0 ≤ 0x000)) ∧
    (base + 0x009 < limit ∧ (8 ≠ 8 ∨ 0x009 % 8 ≠ 0 ∨ 0x0A0 ≤ 0x009)) ∧
    (base + 0x0A0 < limit ∧ (8 ≠ 8 ∨ 0x0A0 % 8 ≠ 0 ∨ 0x0A0 ≤ 0x0A0)) ∧
    (base + (limit - 1 - base) < limit ∧ 0x0A0 ≤ limit - 1 - base) ∧ limit ≤ 2 ^ 64 := by decide

/-- R80: the last address of the space is an unlisted offset of the block's; 2^W is no address. -/
theorem test_address_space_end :
    (after (move (.hostRead (2 ^ 64 - 1) 8) exReady)).faultReason = .hostAccess ∧
    move (.hostRead (2 ^ 64) 8) exReady = .fault (.noSuchAddress (2 ^ 64)) := ⟨by decide, rfl⟩

/-- ReadOnlyWriteIgnored: the first and the last read-only register. -/
theorem test_witness_read_only_write :
    (0x028 ≤ 0x028 ∧ 0x028 ≤ 0x098 ∧ 0x028 % 8 = 0) ∧ (0x028 ≤ 0x098 ∧ 0x098 ≤ 0x098 ∧ 0x098 % 8 = 0) := by decide

/-- CommandWhileBusyFaults: inside a sequence, and before its first event. -/
theorem test_witness_busy :
    (∃ s : State, s.platform.WF ∧ s.fault = false ∧ s.busy = true ∧ midSequence s.seq = true) ∧
    ∃ s : State, s.platform.WF ∧ s.fault = false ∧ s.busy = true ∧ midSequence s.seq = false :=
  ⟨⟨running .erase .esLatch (session 0 0 1) exReady, by decide⟩,
    ⟨running .erase .esCmd (session 0 0 1) exReady, by decide⟩⟩

theorem test_faulted_status : StatusInv exFaulted := by
  refine ⟨?_, ?_, ?_, ?_, ?_⟩ <;> decide

/-- FaultedBlockIsQuiescent. -/
theorem test_witness_faulted : ∃ (s : State) (e : Input) (t : State),
    s.fault = true ∧ s.platform.WF ∧ StatusInv s ∧ e.isReset = false ∧ move e s = .next t :=
  ⟨exFaulted, .hostWrite 0x40000008 8 5, exFaulted, by decide, by decide, test_faulted_status, rfl, rfl⟩

/-- HaltedBlockAnswersUnrecoverable. -/
theorem test_witness_halted : ∃ s t : State,
    s.platform.WF ∧ s.fault = false ∧ s.busy = false ∧ s.halted = true ∧ resetNext s = false ∧ step s = .next t :=
  ⟨exHalted, _, by decide, by decide, by decide, by decide, by decide, rfl⟩

/-- LifecycleGatesCommands: a block in UNINIT, in READY and in RELOCATED. -/
theorem test_witness_lifecycle :
    (∃ s : State, s.platform.WF ∧ s.fault = false ∧ s.busy = false ∧ s.halted = false ∧ s.lstate = .uninit) ∧
    (∃ s : State, s.platform.WF ∧ s.fault = false ∧ s.busy = false ∧ s.halted = false ∧ s.lstate = .ready) ∧
    ∃ s : State, s.platform.WF ∧ s.fault = false ∧ s.busy = false ∧ s.halted = false ∧ s.lstate = .relocated :=
  ⟨⟨State.reset, by decide⟩, ⟨exReady, by decide⟩, ⟨exRelocated, by decide⟩⟩

/-- InitLoadsConfiguration. -/
theorem test_witness_init : ∃ s : State, Accepting .init s ∧ s.platform.cfg.present = true ∧
    s.platform.cfg.capabilityPresent = true ∧ s.platform.cfg.resourcesOk = true := ⟨State.reset, by decide⟩

/-- InitFailureChangesOnlyResultCode: its three cases. -/
theorem test_witness_init_failures :
    (∃ s : State, Accepting .init s ∧ s.platform.cfg.present = false) ∧
    (∃ s : State, Accepting .init s ∧ s.platform.cfg.present = true ∧ s.platform.cfg.capabilityPresent = false) ∧
    ∃ s : State, Accepting .init s ∧ s.platform.cfg.present = true ∧ s.platform.cfg.capabilityPresent = true ∧
      s.platform.cfg.resourcesOk = false :=
  ⟨⟨resetOn (exCfg fun c => { c with present := false }), by decide⟩,
    ⟨resetOn (exCfg fun c => { c with capabilityPresent := false }), by decide⟩,
    ⟨resetOn (exCfg fun c => { c with resourcesOk := false }), by decide⟩⟩

/-- GetBlockSizeReturnsSizeAndRemaining: the last LBA and the first one out of range. -/
theorem test_witness_getBlockSize :
    (∃ s : State, Accepting .getBlockSize s ∧ s.arg0.toNat < s.totalBlocks.toNat) ∧
    ∃ s : State, Accepting .getBlockSize s ∧ s.totalBlocks.toNat ≤ s.arg0.toNat :=
  ⟨⟨withArgs 255 0 0 0 exReady, by decide⟩, ⟨withArgs 256 0 0 0 exReady, by decide⟩⟩

/-- AttributesAreReturnedAndReplaced and GetPhysicalAddressReturnsRegionBase. -/
theorem test_witness_attributes_and_address :
    Accepting .getAttributes exReady ∧ Accepting .setAttributes (withArgs 5 0 0 0 exReady) ∧
    Accepting .getPhysicalAddress exReady := ⟨by decide, by decide, by decide⟩

theorem test_ports_fit (p : Port) :
    (withArgs 0xFFFFFFFFFFFFFFDF 0 0 0 exReady).arg0.toNat + (exReady.platform.ports.at p).toNat <
      exReady.platform.limit := by
  cases p <;> decide

/-- RelocateReplacesControllerBase: the greatest base whose ports fit and the next. -/
theorem test_witness_relocate :
    (∃ s : State, Accepting .relocate s ∧
      ∀ p : Port, s.arg0.toNat + (s.platform.ports.at p).toNat < s.platform.limit) ∧
    ∃ s : State, Accepting .relocate s ∧
      ∃ p : Port, s.platform.limit ≤ s.arg0.toNat + (s.platform.ports.at p).toNat :=
  ⟨⟨withArgs 0xFFFFFFFFFFFFFFDF 0 0 0 exReady, by decide, test_ports_fit⟩,
    ⟨withArgs 0xFFFFFFFFFFFFFFE0 0 0 0 exReady, by decide, .address, by decide⟩⟩

/-- WriteAndEraseParameterErrors: a chunk one byte too long, a misaligned address, a unit one byte short. -/
theorem test_witness_parameter_errors :
    (∃ s : State, Accepting .writeChunk s ∧
      (256 < s.arg2.toNat ∨ s.arg2.toNat % 4 ≠ 0 ∨ s.arg0.toNat % 4 ≠ 0)) ∧
    (∃ s : State, Accepting .write s ∧ (s.arg0.toNat % 4 ≠ 0 ∨ s.arg2.toNat % 4 ≠ 0)) ∧
    ∃ s : State, Accepting .erase s ∧ s.arg1.toNat % s.blockSize.toNat ≠ 0 :=
  ⟨⟨withArgs 0x11010000 0x80000000 257 0 exReady, by decide⟩,
    ⟨withArgs 0x11010002 0x80000000 4 0 exReady, by decide⟩, ⟨withArgs 0x11010000 0xFFFF 0 0 exReady, by decide⟩⟩

/-- FacadeRangeErrors: the first LBA out of range, a range one byte past the block, a misaligned one. -/
theorem test_witness_facade_errors :
    (∃ s : State, Accepting .fvbRead s ∧ s.totalBlocks.toNat ≤ s.arg0.toNat) ∧
    (∃ s : State, Accepting .fvbRead s ∧ s.blockSize.toNat < s.arg1.toNat + s.arg2.toNat) ∧
    ∃ s : State, Accepting .fvbWrite s ∧
      (s.regionBase.toNat + s.arg0.toNat * s.blockSize.toNat + s.arg1.toNat) % 4 ≠ 0 :=
  ⟨⟨withArgs 256 0 4 0x80000000 exReady, by decide⟩, ⟨withArgs 0 0xFFFD 4 0x80000000 exReady, by decide⟩,
    ⟨withArgs 0 2 4 0x80000000 exReady, by decide⟩⟩

/-- TransferChecksFaultInOrder: an overflow by one, a range past the window, a buffer one byte past host memory. -/
theorem test_witness_transfer_checks :
    (∃ s : State, Accepting .read s ∧ s.arg2.toNat ≠ 0 ∧ ¬ TransferOk s s.arg0.toNat s.arg1.toNat s.arg2.toNat ∧
      s.platform.limit < s.arg0.toNat + s.arg2.toNat) ∧
    (∃ s : State, Accepting .write s ∧ s.arg2.toNat ≠ 0 ∧ (s.arg2.toNat % 4 = 0 ∧ s.arg0.toNat % 4 = 0) ∧
      ¬ TransferOk s s.arg0.toNat s.arg1.toNat s.arg2.toNat ∧
      s.devBase.toNat + s.platform.flashSize < s.arg0.toNat + s.arg2.toNat) ∧
    ∃ s : State, Accepting .writeChunk s ∧ s.arg2.toNat ≠ 0 ∧ s.arg2.toNat ≤ 256 ∧
      (s.arg2.toNat % 4 = 0 ∧ s.arg0.toNat % 4 = 0) ∧ ¬ TransferOk s s.arg0.toNat s.arg1.toNat s.arg2.toNat ∧
      s.arg0.toNat + s.arg2.toNat ≤ s.devBase.toNat + s.platform.flashSize :=
  ⟨⟨withArgs 0xFFFFFFFFFFFFFFFF 0x80000000 2 0 exReady, by decide⟩,
    ⟨withArgs 0x11FFFFFC 0x80000000 8 0 exReady, by decide⟩,
    ⟨withArgs 0x11FFFFFC 0x800FFFFD 4 0 exReady, by decide⟩⟩

/-- HostRangeChecksFaultInOrder: its three groups. -/
theorem test_witness_host_range_checks :
    (∃ s : State, Accepting .fvbWrite s ∧ s.arg0.toNat < s.totalBlocks.toNat ∧
      s.arg1.toNat + s.arg2.toNat ≤ s.blockSize.toNat ∧
      ((s.regionBase.toNat + s.arg0.toNat * s.blockSize.toNat + s.arg1.toNat) % 4 = 0 ∧ s.arg2.toNat % 4 = 0) ∧
      ¬ BufferOk s s.arg3.toNat s.arg2.toNat) ∧
    (∃ s : State, Accepting .getDevices s ∧ ¬ BufferOk s s.arg0.toNat 48) ∧
    ∃ s : State, Accepting .eraseBlocks s ∧ ¬ BufferOk s s.arg0.toNat s.platform.width.bytes :=
  ⟨⟨withArgs 255 0xFFFC 4 0x800FFFFD exReady, by decide⟩, ⟨withArgs 0x800FFFD1 0 0 0 exReady, by decide⟩,
    ⟨withArgs 0xFFFFFFFFFFFFFFF9 0 0 0 exReady, by decide⟩⟩

/-- EraseChecksFaultInOrder: the bytes on both sides of the window, an ERASE that overflows by one, and one whose last unit
starts just past the window. -/
theorem test_witness_erase_checks :
    (∃ s : State, Accepting .eraseSingleBlock s ∧ s.arg0.toNat < s.devBase.toNat) ∧
    (∃ s : State, Accepting .eraseBlockRetry s ∧ s.devBase.toNat + s.platform.flashSize ≤ s.arg0.toNat) ∧
    (∃ s : State, Accepting .erase s ∧ s.arg1.toNat % s.blockSize.toNat = 0 ∧ s.arg1.toNat / s.blockSize.toNat ≠ 0 ∧
      s.platform.limit < s.arg0.toNat + s.arg1.toNat) ∧
    ∃ s : State, Accepting .erase s ∧ s.arg1.toNat % s.blockSize.toNat = 0 ∧ s.arg1.toNat / s.blockSize.toNat ≠ 0 ∧
      s.arg0.toNat + s.arg1.toNat ≤ s.platform.limit ∧ s.devBase.toNat + s.platform.flashSize <
        s.arg0.toNat + (s.arg1.toNat / s.blockSize.toNat - 1) * s.blockSize.toNat + 1 :=
  ⟨⟨withArgs 0x0FFFFFFF 0 0 0 exReady, by decide⟩, ⟨withArgs 0x12000000 0 0 0 exReady, by decide⟩,
    ⟨withArgs 0xFFFFFFFFFFFF0001 0x10000 0 0 exReady, by decide⟩,
    ⟨withArgs 0x11FF0000 0x20000 0 0 exReady, by decide⟩⟩

/-- ReadCopiesWindowBytes: the last byte of the window into the last of host memory, and a read of nothing. -/
theorem test_witness_read :
    (∃ s : State, Accepting .read s ∧ s.mem.wf = true ∧ TransferOk s s.arg0.toNat s.arg1.toNat s.arg2.toNat ∧
      s.arg2.toNat = 1) ∧
    ∃ s : State, Accepting .read s ∧ s.mem.wf = true ∧ TransferOk s s.arg0.toNat s.arg1.toNat s.arg2.toNat ∧
      s.arg2.toNat = 0 :=
  ⟨⟨withArgs 0x11FFFFFF 0x800FFFFF 1 0 exReady, by decide⟩, ⟨withArgs 0 0 0 0 exReady, by decide⟩⟩

/-- FvbReadCopiesBlockBytes: the last byte of the last block. -/
theorem test_witness_fvbRead : ∃ s : State, Accepting .fvbRead s ∧ s.mem.wf = true ∧
    s.arg0.toNat < s.totalBlocks.toNat ∧ s.arg1.toNat + s.arg2.toNat ≤ s.blockSize.toNat ∧
    BufferOk s s.arg3.toNat s.arg2.toNat := ⟨withArgs 255 0xFFFF 1 0x80000000 exReady, by decide⟩

/-- GetDevicesWritesDescriptor: the last record that fits. -/
theorem test_witness_getDevices : ∃ s : State, Accepting .getDevices s ∧ s.mem.wf = true ∧
    BufferOk s s.arg0.toNat 48 := ⟨withArgs 0x800FFFD0 0 0 0 exReady, by decide⟩

/-- WriteChunkProgramsOneSequence: a whole page from an odd buffer, and a chunk of nothing. -/
theorem test_witness_writeChunk :
    (∃ s : State, Accepting .writeChunk s ∧ canonicalFlash s.chip.flash = true ∧ s.arg2.toNat ≤ 256 ∧
      s.arg2.toNat % 4 = 0 ∧ s.arg0.toNat % 4 = 0 ∧ TransferOk s s.arg0.toNat s.arg1.toNat s.arg2.toNat ∧
      s.arg2.toNat = 256) ∧
    ∃ s : State, Accepting .writeChunk s ∧ canonicalFlash s.chip.flash = true ∧ s.arg2.toNat ≤ 256 ∧
      s.arg2.toNat % 4 = 0 ∧ s.arg0.toNat % 4 = 0 ∧ TransferOk s s.arg0.toNat s.arg1.toNat s.arg2.toNat ∧
      s.arg2.toNat = 0 :=
  ⟨⟨withArgs 0x11FFFF00 0x80000001 256 0 exReady, by decide⟩, ⟨withArgs 0 0 0 0 exReady, by decide⟩⟩

/-- The draws of the programming and erasing runs: any number of OK answers. -/
theorem test_witness_all_ok (n : Nat) : (List.replicate n good).length = n ∧ AllOk (List.replicate n good) :=
  ⟨List.length_replicate, fun _ hd => (List.eq_of_mem_replicate hd).symm ▸ rfl⟩

/-- WriteProgramsChunksInOrder: R215's example. -/
theorem test_witness_write : ∃ s : State, Accepting .write s ∧ canonicalFlash s.chip.flash = true ∧
    s.arg2.toNat % 4 = 0 ∧ s.arg0.toNat % 4 = 0 ∧ TransferOk s s.arg0.toNat s.arg1.toNat s.arg2.toNat :=
  ⟨withArgs 0x11010000 0x80000000 300 0 exReady, by decide⟩

/-- R215's example: 300 bytes are a chunk of 256 and one of 44. -/
theorem test_chunks_of_300 : chunkList 300 = [(0, 256), (256, 44)] ∧ chunkList 256 = [(0, 256)] ∧ chunkList 0 = [] := by
  decide

/-- An initialised block with an erased chip and the operands of a write at the end of block 1. -/
def exWrite : State := withArgs 1 0xFFFC 4 0x80000000 exErased

/-- EveryStepKeepsInvariant and every obligation that assumes the invariant. -/
theorem test_witness_invariant : Inv exWrite where
  memory := by unfold MemoryInv; decide
  status := by refine ⟨?_, ?_, ?_, ?_, ?_⟩ <;> decide
  descriptor := by refine ⟨?_, ?_, ?_⟩ <;> decide
  width := by unfold WidthInv; decide
  history := ⟨by decide, by decide, by intro e he; cases he⟩
  pending := by unfold PendingInv; decide
  session := trivial

/-- FvbWriteProgramsBlockBytes. -/
theorem test_witness_fvbWrite : ∃ s : State, Accepting .fvbWrite s ∧ Inv s ∧ s.arg0.toNat < s.totalBlocks.toNat ∧
    s.arg1.toNat + s.arg2.toNat ≤ s.blockSize.toNat ∧
    (s.regionBase.toNat + s.arg0.toNat * s.blockSize.toNat + s.arg1.toNat) % 4 = 0 ∧ s.arg2.toNat % 4 = 0 ∧
    BufferOk s s.arg3.toNat s.arg2.toNat :=
  ⟨exWrite, by decide, test_witness_invariant, by decide⟩

theorem test_erased_range (j : Nat) : condAt exWrite.chip.flash
    (exWrite.regionBase.toNat + exWrite.arg0.toNat * exWrite.blockSize.toNat + exWrite.arg1.toNat -
      exWrite.devBase.toNat + j) = .erased := rfl

/-- FvbWriteThenReadReturnsBytes; its draws are those of `test_witness_all_ok` at 7, and any 8. -/
theorem test_witness_round_trip : ∃ (s : State) (buf2 : Word), Accepting .fvbWrite s ∧ Inv s ∧
    undefOnceBegun s = false ∧ s.arg0.toNat < s.totalBlocks.toNat ∧
    s.arg1.toNat + s.arg2.toNat ≤ s.blockSize.toNat ∧
    (s.regionBase.toNat + s.arg0.toNat * s.blockSize.toNat + s.arg1.toNat) % 4 = 0 ∧ s.arg2.toNat % 4 = 0 ∧
    BufferOk s s.arg3.toNat s.arg2.toNat ∧ BufferOk s buf2.toNat s.arg2.toNat ∧
    (∀ j, j < s.arg2.toNat → condAt s.chip.flash
      (s.regionBase.toNat + s.arg0.toNat * s.blockSize.toNat + s.arg1.toNat - s.devBase.toNat + j) = .erased) ∧
    7 = ((chunkList s.arg2.toNat).map fun c => 5 + 2 * (c.2 / 4)).sum ∧ 8 = 2 * s.arg2.toNat :=
  ⟨exWrite, 0x80000100, by decide, test_witness_invariant, by decide, by decide, by decide, by decide, by decide,
    by decide, by decide, fun j _ => test_erased_range j, by decide, by decide⟩

/-- EraseSingleBlockErasesUnit: the first and the last byte of the window. -/
theorem test_witness_eraseSingleBlock :
    (∃ s : State, Accepting .eraseSingleBlock s ∧ canonicalFlash s.chip.flash = true ∧
      s.platform.eraseCompletion = .immediate ∧ s.devBase.toNat ≤ s.arg0.toNat ∧
      s.arg0.toNat < s.devBase.toNat + s.platform.flashSize ∧ s.arg0.toNat = s.devBase.toNat) ∧
    ∃ s : State, Accepting .eraseSingleBlock s ∧ canonicalFlash s.chip.flash = true ∧
      s.platform.eraseCompletion = .immediate ∧ s.devBase.toNat ≤ s.arg0.toNat ∧
      s.arg0.toNat < s.devBase.toNat + s.platform.flashSize ∧
      s.arg0.toNat + 1 = s.devBase.toNat + s.platform.flashSize :=
  ⟨⟨withArgs 0x10000000 0 0 0 exReady, by decide⟩, ⟨withArgs 0x11FFFFFF 0 0 0 exReady, by decide⟩⟩

/-- AsyncEraseLeavesUnitPending. -/
theorem test_witness_async_erase : ∃ s : State, Accepting .eraseSingleBlock s ∧
    s.platform.eraseCompletion = .async ∧ s.chip.pending = [] ∧ s.chip.undef = false ∧
    s.devBase.toNat ≤ s.arg0.toNat ∧ s.arg0.toNat < s.devBase.toNat + s.platform.flashSize :=
  ⟨withArgs 0x11050000 0 0 0 exAsync, by decide⟩

/-- EraseErasesUnitsInOrder: two units, the second the window's last, and none. -/
theorem test_witness_erase :
    (∃ s : State, Accepting .erase s ∧ canonicalFlash s.chip.flash = true ∧
      s.platform.eraseCompletion = .immediate ∧ s.arg1.toNat % s.blockSize.toNat = 0 ∧
      (s.arg0.toNat + s.arg1.toNat ≤ s.platform.limit ∧ s.devBase.toNat ≤ s.arg0.toNat ∧
        s.arg0.toNat + (s.arg1.toNat / s.blockSize.toNat - 1) * s.blockSize.toNat + 1 ≤
          s.devBase.toNat + s.platform.flashSize) ∧ s.arg1.toNat / s.blockSize.toNat = 2) ∧
    ∃ s : State, Accepting .erase s ∧ canonicalFlash s.chip.flash = true ∧
      s.platform.eraseCompletion = .immediate ∧ s.arg1.toNat % s.blockSize.toNat = 0 ∧
      s.arg1.toNat / s.blockSize.toNat = 0 :=
  ⟨⟨withArgs 0x11FE0000 0x20000 0 0 exReady, by decide⟩, ⟨withArgs 0 0 0 0 exReady, by decide⟩⟩

/-- R288's example with an invalid pair added: `(0, 1), (256, 1), (5, 2), END`. -/
def exList : State :=
  { withArgs 0x80000200 0 0 0 exReady with
    mem := [(0x80000200, 0), (0x80000208, 1), (0x80000210, 256), (0x80000218, 1), (0x80000220, 5), (0x80000228, 2),
      (0x80000230, 2 ^ 64 - 1)].foldl (fun m e => writeBytes m e.1 8 e.2) [] }

theorem test_list_in_memory : ListAt exList exList.arg0.toNat [(0, 1), (256, 1), (5, 2)] :=
  ⟨⟨by decide, by decide, by decide⟩, by decide, ⟨by decide, by decide, by decide⟩,
    ⟨by decide, by decide, by decide⟩, by decide, ⟨by decide, by decide, by decide⟩,
    ⟨by decide, by decide, by decide⟩, by decide, ⟨by decide, by decide, by decide⟩,
    ⟨by decide, by decide, by decide⟩⟩

/-- EraseBlocksErasesValidPairs. -/
theorem test_witness_eraseBlocks : ∃ (s : State) (ps : List (Nat × Nat)), Accepting .eraseBlocks s ∧
    canonicalFlash s.chip.flash = true ∧ s.platform.eraseCompletion = .immediate ∧ ListAt s s.arg0.toNat ps :=
  ⟨exList, [(0, 1), (256, 1), (5, 2)], by decide, by decide, by decide, test_list_in_memory⟩

/-- What that list erases: the three addresses of R288's example; the invalid pair's code is kept. -/
theorem test_eraseBlocks_units :
    [(0, 1), (256, 1), (5, 2)].flatMap (pairUnits exList) = [0x11000000, 0x11050000, 0x11060000] ∧
    listStatus exList [(0, 1), (256, 1), (5, 2)] = .invalidParameter := by decide

/-- EraseBlockRetrySucceedsAtOnce. -/
theorem test_witness_eraseBlockRetry : ∃ s : State, Accepting .eraseBlockRetry s ∧
    canonicalFlash s.chip.flash = true ∧ s.platform.eraseCompletion = .immediate ∧ s.chip.undef = false ∧
    s.devBase.toNat ≤ s.arg0.toNat ∧ s.arg0.toNat < s.devBase.toNat + s.platform.flashSize :=
  ⟨withArgs 0x11000000 0 0 0 exReady, by decide⟩

/-- EraseBlockRetryGivesUpAfterTen. -/
theorem test_witness_retry_exhaustion : ∃ (s : State) (js : List Nat), Accepting .eraseBlockRetry s ∧
    s.devBase.toNat ≤ s.arg0.toNat ∧ s.arg0.toNat < s.devBase.toNat + s.platform.flashSize ∧ js.length = 10 ∧
    (∀ j ∈ js, j < 4) ∧ good.ok = true ∧ bad.ok = false :=
  ⟨withArgs 0x11000000 0 0 0 exReady, [0, 1, 2, 3, 0, 1, 2, 3, 0, 3], by decide⟩

/-- RetryAfterFailedCompletion. -/
theorem test_witness_retry_after_failure : ∃ s : State, Accepting .eraseBlockRetry s ∧
    canonicalFlash s.chip.flash = true ∧ s.platform.eraseCompletion = .async ∧ s.chip.pending = [] ∧
    s.chip.undef = false ∧ s.devBase.toNat ≤ s.arg0.toNat ∧
    s.arg0.toNat < s.devBase.toNat + s.platform.flashSize := ⟨withArgs 0x11000000 0 0 0 exAsync, by decide⟩

/-- SequencerStepsAreMicroSteps. -/
theorem test_witness_sequencer_steps : ∃ (s : State) (ds : List Draw) (rest : List Input),
    s.platform.WF ∧ s.inputs = ds.map Input.sequencer ++ rest :=
  ⟨withInputs [.sequencer good, .sequencer bad] exReady, [good, bad], [], by decide⟩

/-- MicroStepFrame: a copied byte, a record's field, a FLUSH with a page and an erase latch, and an idle block. -/
theorem test_witness_micro_frame :
    (exReady.mem.wf = true ∧ canonicalFlash exReady.chip.flash = true ∧ exReady.seq = .idle ∧ good.ok = true) ∧
    (running .read .memWrite (session 0x11000000 0x80000000 1) exReady).seq =
      .active .read .memWrite (session 0x11000000 0x80000000 1) ∧
    (running .getDevices .record (session 0 0x80000000 0) exReady).seq =
      .active .getDevices .record (session 0 0x80000000 0) ∧
    (running .write .ppFlush (session 0x11010000 0x80000000 4) (emitData 0x11010000 1 exReady)).seq =
      .active .write .ppFlush (session 0x11010000 0x80000000 4) ∧
    (0x11010000, 1) ∈ (emitData 0x11010000 1 exReady).chip.page ∧
    (running .erase .esLatch (session 0x11050000 0 1) exReady).seq =
      .active .erase .esLatch (session 0x11050000 0 1) := by decide

/-- MicroStepEmitsItsEvent: a running command stands at some position. -/
theorem test_witness_micro_step : ∃ (s : State) (op : Instr) (k : Pos) (ses : Session), s.seq = .active op k ses :=
  ⟨running .write .ppData (session 0x11010000 0x80000000 8) exReady, _, _, _, rfl⟩

/-- ErrorAnswerEndsTheSequence: an ERROR answer in a page program, in an erase that halts, and in a ninth and a tenth
attempt. -/
theorem test_witness_error_answer :
    bad.ok = false ∧
    (running .writeChunk .ppFlush (session 0 0 4) exReady).seq = .active .writeChunk .ppFlush (session 0 0 4) ∧
    (running .eraseBlocks .esLatch (session 0 0 1) exReady).seq = .active .eraseBlocks .esLatch (session 0 0 1) ∧
    (running .eraseBlockRetry .esCmd { session 0 0 1 with attempt := 9 } exReady).seq =
      .active .eraseBlockRetry .esCmd { session 0 0 1 with attempt := 9 } ∧
    (running .eraseBlockRetry .esCmd { session 0 0 1 with attempt := 10 } exReady).seq =
      .active .eraseBlockRetry .esCmd { session 0 0 1 with attempt := 10 } := by decide

/-- CommandWriteFrame: a command write has an answer. -/
theorem test_witness_command_write : ∃ (i : Instr) (s t : State), exec i s = .next t := ⟨.relocate, exReady, _, rfl⟩

/-- PollDecidesTheAttempt: polls busy below the limit and at it, done, and failed. -/
theorem test_witness_poll :
    (running .eraseBlockRetry .poll (session 0 0 1) exPending).seq = .active .eraseBlockRetry .poll (session 0 0 1) ∧
    (pollAnswer exPending.platform exPending.chip good = (true, true) ∧
      exPending.platform.pollLimit ≠ some ((session 0 0 1).idx + 1)) ∧
    some 1 = some ((session 0 0 1).idx + 1) ∧ pollAnswer exAsync.platform exAsync.chip good = (false, true) ∧
    pollAnswer exAsync.platform { exAsync.chip with lastOk := false } good = (false, false) := by decide

/-- WindowReadCases: its five cases. -/
theorem test_witness_window_read :
    exUndefined.chip.undef = true ∧
    (exPending.chip.undef = false ∧ exPending.platform.eraseCompletion = .async ∧ exPending.chip.pending ≠ []) ∧
    (exReady.platform.eraseCompletion = .async → exReady.chip.pending = []) ∧
    condAt exErased.chip.flash 0 = .erased ∧ condAt exReady.chip.flash 0x1FFFFFF = .programmed 0 ∧
    condAt [(0, .undefined)] 7 = .undefined := by decide

/-- HostWindowReadSeesTheChip: the last byte of the window. -/
theorem test_witness_host_window_read : ∃ (s : State) (a : Nat), a < s.platform.limit ∧ s.lstate ≠ .uninit ∧
    s.devBase.toNat ≤ a ∧ a < s.devBase.toNat + s.platform.flashSize := ⟨exReady, 0x11FFFFFF, by decide⟩

/-- PollAnswerCases: a POLL of the three kinds of chip. -/
theorem test_witness_poll_answer :
    (running .eraseBlockRetry .poll (session 0 0 1) exReady).seq = .active .eraseBlockRetry .poll (session 0 0 1) ∧
    exUndefined.chip.undef = true ∧
    (exReady.chip.undef = false ∧ exReady.platform.eraseCompletion = .immediate) ∧
    (exAsync.chip.undef = false ∧ exAsync.platform.eraseCompletion = .async) := by decide

/-- SequenceDuringPendingEraseUndefinesChip: with an erase pending and with none. -/
theorem test_witness_pending_sequence :
    (running .erase .esCmd (session 0 0 1) exPending).seq = .active .erase .esCmd (session 0 0 1) ∧ good.ok = true ∧
    (exPending.platform.eraseCompletion = .async ∧ exPending.chip.pending ≠ []) ∧
    exReady.platform.eraseCompletion = .immediate ∧ exAsync.chip.pending = [] := by decide

/-- CompleteErasesOrUndefinesUnit. -/
theorem test_witness_complete : ∃ (s : State) (k : Nat), canonicalFlash s.chip.flash = true ∧ k ∈ s.chip.pending :=
  ⟨exPending, 5, by decide⟩

/-- PowerCycleUndefinesPendingUnits. -/
theorem test_witness_power_cycle : ∃ s : State, s.seq = .idle ∧ canonicalFlash s.chip.flash = true :=
  ⟨exPending, by decide⟩

/-- LifecycleTransitions, OnlyResetClearsFaultAndHalt, RegistersChangeOnlyByTheirWriters: a step that resets and one that
does not, from a state that meets the invariant. -/
theorem test_witness_steps :
    (∃ s t : State, step s = .next t ∧ resetNext s = true) ∧
    ∃ s t : State, Inv s ∧ StatusInv s ∧ step s = .next t ∧ resetNext s = false :=
  ⟨⟨withInputs [.blockReset] exReady, _, rfl, by decide⟩,
    ⟨exWrite, _, test_witness_invariant, test_witness_invariant.status, rfl, by decide⟩⟩

/-- AttributesHaveNoEffect. -/
theorem test_witness_attributes : ∃ (i : Instr) (s t : State), i ∉ [Instr.init, .getAttributes, .setAttributes] ∧
    exec i s = .next t := ⟨.fvbWrite, exWrite, _, by decide, rfl⟩

end Sys2Proof.Tests
end

section
/-! PROOFS. The state after reset (10_state.md R58). -/

namespace Sys2Proof.Proofs

open Sys2Proof Sys2Proof.Machine

/-- UNINIT, SUCCESS and no reason are the zeros of R145, R146 and R148, so the six fields of STATUS sum to 0. -/
@[simp] theorem statusWord_reset : statusWord State.reset = 0 := by
  simp [statusWord, wordOf, State.reset, lstateCode, statusCode, faultCode]

@[simp] theorem readReg_reset (r : Reg) : readReg State.reset r = 0 := by
  cases r
  case status => exact statusWord_reset
  all_goals rfl

/-- The bank is read in the order of R131: twenty zeros when every register reads 0. -/
theorem map_readReg_allRegs_eq_zeros {s : State} (hzero : ∀ r, readReg s r = 0) :
    allRegs.map (readReg s) = List.replicate 20 0 :=
  List.map_eq_replicate_iff.mpr fun r _ => hzero r

/-- The flags the chip starts with (R96): defined, no erase pending, the last one taken as good. -/
theorem chip_reset_flags :
    State.reset.chip.undef = false ∧ State.reset.chip.pending = [] ∧ State.reset.chip.lastOk = true :=
  ⟨rfl, rfl, rfl⟩

/-- The fields of STATUS after reset (R58). -/
theorem status_fields_reset :
    State.reset.lstate = .uninit ∧ State.reset.busy = false ∧ State.reset.halted = false ∧
    State.reset.fault = false ∧ State.reset.resultCode = .success ∧ State.reset.faultReason = .noFault :=
  ⟨rfl, rfl, rfl, rfl, rfl, rfl⟩

/-- Settles O51: the bank from `readReg_reset`, the fields of STATUS and the chip's flags from their lemmas; SEQ and the
history stand in `State.reset`. -/
theorem resetStateHoldsResetValues : Obligations.ResetStateHoldsResetValues := by
  obtain ⟨hlstate, hbusy, hhalted, hfault, hcode, hreason⟩ := status_fields_reset
  obtain ⟨hundef, hpending, hlast⟩ := chip_reset_flags
  exact ⟨map_readReg_allRegs_eq_zeros readReg_reset, hlstate, hbusy, hhalted, hfault, hcode, hreason, rfl,
    hundef, hpending, hlast, rfl⟩

end Sys2Proof.Proofs
end

section
/-! PROOFS. The events of a sequence (30_encoding.md R155, 20_memory.md R106) and the micro-steps of a page program
(40_engine.md R210), every answer OK. -/

namespace Sys2Proof.Proofs

open Sys2Proof Sys2Proof.Machine

/-! ### SEQ is overwritten by what follows a micro-step -/

@[simp] theorem finish_goto (c : Status) (op : Instr) (k : Pos) (ses : Session) (s : State) :
    finish c (goto op k ses s) = finish c s := rfl

@[simp] theorem fatal_goto (op : Instr) (k : Pos) (ses : Session) (s : State) : fatal (goto op k ses s) = fatal s := rfl

@[simp] theorem goto_goto (op op' : Instr) (k k' : Pos) (ses ses' : Session) (s : State) :
    goto op k ses (goto op' k' ses' s) = goto op k ses s := rfl

@[simp] theorem nextWord_goto (op op' : Instr) (i : Nat) (k : Pos) (ses ses' : Session) (s : State) :
    nextWord op i ses (goto op' k ses' s) = nextWord op i ses s := by
  simp only [nextWord, goto_goto]

@[simp] theorem nextChunk_goto (op op' : Instr) (k : Pos) (ses ses' : Session) (s : State) :
    nextChunk op ses (goto op' k ses' s) = nextChunk op ses s := by
  simp only [nextChunk, goto_goto, finish_goto]

/-- What a command does after a page program does not depend on the position it comes from. -/
@[simp] theorem afterProgram_goto (op op' : Instr) (st : Status) (k : Pos) (ses ses' : Session) (s : State) :
    afterProgram op st ses (goto op' k ses' s) = afterProgram op st ses s := by
  cases op
  case write => simp only [afterProgram, contWrite, nextChunk_goto, fatal_goto]
  case fvbWrite => simp only [afterProgram, contFvbWrite, nextChunk_goto, fatal_goto]
  all_goals rfl

/-! ### Micro-steps of a running command -/

theorem microStep_active {s : State} {op : Instr} {k : Pos} {ses : Session} (h : s.seq = .active op k ses) (d : Draw) :
    microStep d s = microAt op k ses d s := by
  rw [microStep, h]

theorem microStep_goto (d : Draw) (op : Instr) (k : Pos) (ses : Session) (s : State) :
    microStep d (goto op k ses s) = microAt op k ses d (goto op k ses s) := rfl

theorem runMicro_cons (d : Draw) (ds : List Draw) (s : State) :
    runMicro (d :: ds) s = runMicro ds (microStep d s) := rfl

/-! ### Events answered OK -/

@[simp] theorem answeredOk_nil (n : Nat) : answeredOk n [] = [] := rfl

@[simp] theorem length_answeredOk (n : Nat) (bodies : List EventBody) :
    (answeredOk n bodies).length = bodies.length := by
  simp [answeredOk]

/-- Numbering goes on over two lists of events in a row (R155). -/
theorem answeredOk_append (n : Nat) (as bs : List EventBody) :
    answeredOk n (as ++ bs) = answeredOk n as ++ answeredOk (n + as.length) bs := by
  simp only [answeredOk, List.zipIdx_append, List.map_append, List.append_cancel_left_eq]
  rw [List.zipIdx_eq_map_add, List.map_map]
  refine List.map_congr_left fun e _ => ?_
  simp only [Function.comp_apply, Nat.zero_add, Nat.add_assoc]

/-- `s` after the events `bodies`, each answered OK (R155). -/
def logged (bodies : List EventBody) (s : State) : State :=
  { s with history := s.history ++ answeredOk s.history.length bodies }

@[simp] theorem logged_logged (as bs : List EventBody) (s : State) : logged bs (logged as s) = logged (as ++ bs) s := by
  simp [logged, answeredOk_append]

/-- A configure event answered OK does nothing but add its record (R100, R155). -/
theorem configure_ok (kind : EventKind) (reg value : Word) (p : Port) (s : State) :
    configure kind reg value p true s = logged [(kind, some reg, some value, some (portAddr s p))] s := by
  simp [configure, emit, logged, answeredOk]

/-- A data store: the address and the word (R153). -/
abbrev Store := Nat × BitVec 32

/-- The DATA event of a data store (R150). -/
def storeEvent (e : Store) : EventBody := (.data, none, some (e.2.setWidth 64), some e.1)

/-- `s` after the DATA events of `stores`: their records, and the words in the chip's page buffer (R97, R153). -/
def stored (stores : List Store) (s : State) : State :=
  { logged (stores.map storeEvent) s with chip := { s.chip with page := s.chip.page ++ stores } }

@[simp] theorem stored_nil (s : State) : stored [] s = s := by
  simp [stored, logged]

@[simp] theorem stored_stored (as bs : List Store) (s : State) : stored bs (stored as s) = stored (as ++ bs) s := by
  simp [stored, logged, answeredOk_append]

theorem emitData_eq_stored (addr : Nat) (w : BitVec 32) (s : State) : emitData addr w s = stored [(addr, w)] s := rfl

/-! ### The events of a page program -/

/-- Events (1) to (3) of R210. -/
def headEvents (s : State) : List EventBody :=
  [(.cfgCmd, some ((ppOpOf s.cmdset).setWidth 64), some s.platform.ctrlFixed, some (portAddr s .command)),
    (.cfgLoad, some ((ppOpOf s.cmdset).setWidth 64), some s.platform.loadValue, some (portAddr s .load)),
    (.cfgWcfg, some s.platform.regWcfg, some s.platform.weValue, some (portAddr s .writeConfig))]

/-- Events (5) and (6) of R210. -/
def tailEvents (s : State) : List EventBody :=
  [(.cfgFlush, some s.platform.regFlush, some s.platform.flushValue, some (portAddr s .flush)),
    (.cfgWcfg, some s.platform.regWcfg, some s.platform.weClearValue, some (portAddr s .writeConfig))]

/-- Data store `i` of a page program at `addr` from `buf` (R210 step 4). -/
def pageStore (s : State) (addr buf i : Nat) : Store := (addr + 4 * i, dataWord s buf i)

/-- The first `n` data stores of a page program at `addr` from `buf`, in order (R210 step 4). -/
def pageStores (s : State) (addr buf n : Nat) : List Store := (List.range n).map (pageStore s addr buf)

theorem programEvents_eq (s : State) (addr buf len : Nat) :
    programEvents s addr buf len =
      headEvents s ++ (pageStores s addr buf (len / 4)).map storeEvent ++ tailEvents s := by
  simp only [programEvents, pageStores, List.map_map]
  rfl

/-! ### The micro-steps of a page program -/

/-- Steps (1) to (3) of R210: the sequence begins, and its first data word, if any, comes next. -/
theorem runMicro_head (op : Instr) (ses : Session) (s : State) {d₁ d₂ d₃ : Draw} (ds : List Draw)
    (h₁ : d₁.ok = true) (h₂ : d₂.ok = true) (h₃ : d₃.ok = true) :
    runMicro (d₁ :: d₂ :: d₃ :: ds) (goto op .ppCmd ses s) =
      runMicro ds (nextWord op 0 ses (logged (headEvents s) (beginEvent s))) := by
  have hcmd : microStep d₁ (goto op .ppCmd ses s) =
      goto op .ppLoad ses (logged ((headEvents s).take 1) (beginEvent s)) := by
    simp only [microStep_goto, microAt, h₁, if_true, emitCmd, configure_ok]
    rfl
  have hload (t : State) : microStep d₂ (goto op .ppLoad ses t) =
      goto op .ppWe ses (logged (((headEvents t).drop 1).take 1) t) := by
    simp only [microStep_goto, microAt, h₂, if_true, emitLoad, configure_ok]
    rfl
  have hwe (t : State) : microStep d₃ (goto op .ppWe ses t) =
      nextWord op 0 ses (logged ((headEvents t).drop 2) t) := by
    simp only [microStep_goto, microAt, h₃, if_true, emitWcfg, configure_ok]
    exact nextWord_goto op op 0 .ppWe ses ses (logged ((headEvents t).drop 2) t)
  simp only [runMicro_cons, hcmd, hload, hwe, logged_logged]
  rfl

/-- The data word in flight, cut to 32 bits, is the word of the store. -/
theorem setWidth_memRead_eq_dataWord (s : State) (buf i : Nat) :
    (wordOf (memRead s (buf + wordBytes * i) wordBytes)).setWidth 32 = dataWord s buf i :=
  BitVec.setWidth_ofNat_of_le (by decide) _

/-- Step (4) of R210 for data word `i`: its `MemRead` and its DATA event. -/
theorem runMicro_word (op : Instr) (i : Nat) (ses : Session) (s : State) (d₁ d₂ : Draw) (ds : List Draw)
    (hi : i < chunkBytes ses / 4) :
    ∃ v, runMicro (d₁ :: d₂ :: ds) (nextWord op i ses s) =
      runMicro ds (nextWord op (i + 1) { ses with idx := i, datum := v }
        (stored [pageStore s ses.addr ses.buf i] s)) := by
  have hfetch : nextWord op i ses s = goto op .ppFetch { ses with idx := i } s := if_pos hi
  refine ⟨wordOf (memRead s (ses.buf + wordBytes * i) wordBytes), ?_⟩
  rw [hfetch, pageStore, ← setWidth_memRead_eq_dataWord]
  simp only [runMicro_cons, microStep_goto, microAt, emitData_eq_stored]
  exact congrArg (runMicro ds) (nextWord_goto op op (i + 1) .ppData _ _ (stored [_] s))

/-- Step (4) of R210 from data word `i` on: two micro-steps a word, whatever the draws. -/
theorem runMicro_words (op : Instr) (m i : Nat) (ses : Session) (s : State) (ds : List Draw)
    (hm : i + m = chunkBytes ses / 4) (hds : 2 * m ≤ ds.length) :
    ∃ j v, runMicro ds (nextWord op i ses s) =
      runMicro (ds.drop (2 * m)) (goto op .ppFlush { ses with idx := j, datum := v }
        (stored ((List.range' i m).map (pageStore s ses.addr ses.buf)) s)) := by
  induction m generalizing i ses s ds with
  | zero =>
    have hflush : nextWord op i ses s = goto op .ppFlush ses s := if_neg (by simp only [wordBytes]; omega)
    exact ⟨ses.idx, ses.datum, by simp [hflush]⟩
  | succ m ih =>
    obtain ⟨d₁, d₂, ds, rfl⟩ : ∃ d₁ d₂ es, ds = d₁ :: d₂ :: es := by
      match ds, hds with
      | d₁ :: d₂ :: es, _ => exact ⟨d₁, d₂, es, rfl⟩
    obtain ⟨v, hword⟩ := runMicro_word op i ses s d₁ d₂ ds (by omega)
    obtain ⟨j, v', hrest⟩ := ih (i + 1) { ses with idx := i, datum := v } (stored [pageStore s ses.addr ses.buf i] s) ds
      (by simpa [chunkBytes, Nat.add_assoc, Nat.add_comm 1] using hm) (by simp only [List.length_cons] at hds; omega)
    refine ⟨j, v', ?_⟩
    rw [hword, hrest, stored_stored]
    rfl

/-- Steps (5) and (6) of R210: FLUSH commits the page, write enable is cleared, and the sequence has succeeded. -/
theorem runMicro_tail (op : Instr) (ses : Session) (s : State) {d₁ d₂ : Draw} (h₁ : d₁.ok = true) (h₂ : d₂.ok = true) :
    runMicro [d₁, d₂] (goto op .ppFlush ses s) =
      afterProgram op .success ses
        { logged (tailEvents s) s with chip := commitPage s.devBase.toNat s.chip } := by
  have hflush : microStep d₁ (goto op .ppFlush ses s) =
      goto op .ppClear ses
        { logged ((tailEvents s).take 1) s with chip := commitPage s.devBase.toNat s.chip } := by
    simp only [microStep_goto, microAt, h₁, if_true, emitFlush, configure_ok]
    rfl
  have hclear (t : State) : microStep d₂ (goto op .ppClear ses t) =
      afterProgram op .success ses (logged ((tailEvents t).drop 1) t) := by
    simp only [microStep_goto, microAt, h₂, if_true, emitWcfg, configure_ok]
    exact afterProgram_goto op op .success .ppClear ses ses (logged ((tailEvents t).drop 1) t)
  rw [runMicro_cons, runMicro_cons, hflush, hclear, runMicro]
  congr 1
  simp [logged, answeredOk, tailEvents, portAddr]

/-- `s` after one page program of `len` bytes at `addr` from `buf`, every answer OK (R210, R97, R42): one more sequence,
its events, and its data stores committed. -/
def pageProgrammed (addr buf len : Nat) (s : State) : State :=
  { logged (programEvents s addr buf len) (beginEvent s) with
    chip := commitPage s.devBase.toNat
      { beginSequence s.platform s.chip with page := pageStores s addr buf (len / 4) } }

/-- The three parts of the sequence make one page program. -/
theorem tail_stored_head_eq_pageProgrammed (addr buf len : Nat) (s : State) :
    let t := stored (pageStores s addr buf (len / 4)) (logged (headEvents s) (beginEvent s))
    { logged (tailEvents s) t with chip := commitPage s.devBase.toNat t.chip } = pageProgrammed addr buf len s := by
  simp [pageProgrammed, programEvents_eq, stored, logged, answeredOk_append, beginSequence, Nat.add_assoc]

/-- The page-program sequence of the current chunk, every answer OK and nothing between its micro-steps (R210). -/
theorem runMicro_pageProgram (op : Instr) (ses : Session) (s : State) (ds : List Draw)
    (hds : ds.length = 5 + 2 * (chunkBytes ses / 4)) (hok : AllOk ds) :
    ∃ j v, runMicro ds (goto op .ppCmd ses s) =
      afterProgram op .success { ses with idx := j, datum := v }
        (pageProgrammed ses.addr ses.buf (chunkBytes ses) s) := by
  obtain ⟨d₁, d₂, d₃, ds, rfl⟩ : ∃ d₁ d₂ d₃ es, ds = d₁ :: d₂ :: d₃ :: es := by
    match ds, (by omega : 3 ≤ ds.length) with
    | d₁ :: d₂ :: d₃ :: es, _ => exact ⟨d₁, d₂, d₃, es, rfl⟩
  have hlen : ds.length = 2 * (chunkBytes ses / 4) + 2 := by simp only [List.length_cons] at hds; omega
  obtain ⟨h₁, h₂, h₃, hok⟩ : d₁.ok = true ∧ d₂.ok = true ∧ d₃.ok = true ∧ AllOk ds := by simpa [AllOk] using hok
  obtain ⟨j, v, hwords⟩ := runMicro_words op (chunkBytes ses / 4) 0 ses (logged (headEvents s) (beginEvent s)) ds
    (Nat.zero_add _) (by omega)
  obtain ⟨d₄, d₅, htail⟩ : ∃ d₄ d₅, ds.drop (2 * (chunkBytes ses / 4)) = [d₄, d₅] :=
    List.length_eq_two.mp (by rw [List.length_drop, hlen]; omega)
  have hlast : ∀ d ∈ [d₄, d₅], d.ok = true := fun d hd => hok d (List.mem_of_mem_drop (htail ▸ hd))
  refine ⟨j, v, ?_⟩
  rw [runMicro_head op ses s ds h₁ h₂ h₃, hwords, htail, runMicro_tail _ _ _ (hlast d₄ (by simp)) (hlast d₅ (by simp))]
  rw [← tail_stored_head_eq_pageProgrammed, pageStores, List.range_eq_range']
  rfl

end Sys2Proof.Proofs
end

section
/-! PROOFS. What a page program leaves in the flash array (20_memory.md R97, R98, R101). -/

namespace Sys2Proof.Proofs

open Sys2Proof Sys2Proof.Machine

/-- Programming, in one condition (R98, R101). -/
theorem programmedCond_eq (u : Bool) (b : Byte) (c : Cond) :
    programmedCond u b c = if c = .erased ∧ u = false then .programmed b else .undefined := by
  cases c <;> cases u <;> rfl

/-- Byte `k` of a data word is the buffer byte it was fetched from (R87). -/
theorem wordByte_dataWord (s : State) (buf i k : Nat) (hk : k < 4) :
    wordByte (dataWord s buf i) k = readByte s.mem (buf + 4 * i + k) := by
  have hlt : readBytes s.mem (buf + 4 * i) 4 < 2 ^ 32 := readBytes_lt s.mem (buf + 4 * i) 4
  rw [← byteOf_readBytes s.mem _ 4 k hk, wordByte, dataWord, BitVec.toNat_ofNat, Nat.mod_eq_of_lt hlt, byteOf]

theorem pageStores_succ (s : State) (addr buf n : Nat) :
    pageStores s addr buf (n + 1) = pageStores s addr buf n ++ [pageStore s addr buf n] := by
  simp [pageStores, List.range_succ]

/-- Committing the first `n` data stores programs `4 * n` bytes with their buffer bytes and leaves every other byte as it
was (R97). -/
theorem condAt_pageStores {f : Flash} (hf : canonicalFlash f = true) (u : Bool) (s : State) (base addr buf n : Nat)
    (hbase : n = 0 ∨ base ≤ addr) (x : Nat) :
    condAt ((pageStores s addr buf n).foldl (fun f e => programWord u f (e.1 - base) e.2) f) x =
      if addr - base ≤ x ∧ x < addr - base + 4 * n then
        programmedCond u (readByte s.mem (buf + (x - (addr - base)))) (condAt f x)
      else condAt f x := by
  induction n with
  | zero => rw [if_neg (by omega)]; rfl
  | succ n ih =>
    rw [pageStores_succ, List.foldl_append]
    simp only [List.foldl_cons, List.foldl_nil, pageStore]
    rw [condAt_programWord (canonical_page hf u base _), ih (by omega)]
    by_cases hlast : addr + 4 * n - base ≤ x ∧ x < addr + 4 * n - base + 4
    · rw [if_pos hlast, if_neg (by omega), if_pos (by omega), wordByte_dataWord s buf n _ (by omega)]
      congr 2
      omega
    · rw [if_neg hlast]
      exact if_congr (by omega) rfl rfl

/-- Each byte of the array after a page program of whole words inside the window (R97, R98, R101). -/
theorem condAt_pageProgrammed {s : State} (hf : canonicalFlash s.chip.flash = true) (addr buf len : Nat)
    (hlen : len % 4 = 0) (hbase : len = 0 ∨ s.devBase.toNat ≤ addr) (x : Nat) :
    condAt (pageProgrammed addr buf len s).chip.flash x =
      if addr - s.devBase.toNat ≤ x ∧ x < addr - s.devBase.toNat + len then
        if condAt s.chip.flash x = .erased ∧ undefOnceBegun s = false then
          .programmed (readByte s.mem (buf + (x - (addr - s.devBase.toNat))))
        else .undefined
      else condAt s.chip.flash x := by
  have hpage := condAt_pageStores hf (undefOnceBegun s) s s.devBase.toNat addr buf (len / 4) (by omega) x
  rw [show 4 * (len / 4) = len by omega, programmedCond_eq] at hpage
  exact hpage

theorem canonical_pageProgrammed {s : State} (hf : canonicalFlash s.chip.flash = true) (addr buf len : Nat) :
    canonicalFlash (pageProgrammed addr buf len s).chip.flash = true :=
  canonical_commitPage s.devBase.toNat hf

end Sys2Proof.Proofs
end

section
/-! PROOFS. The flash chip's reads, polls and sequences, and WRITE_CHUNK (20_memory.md R90, R98, R106, R107). -/

namespace Sys2Proof.Proofs

open Sys2Proof Sys2Proof.Machine

/-! ### WRITE_CHUNK -/

theorem transferFault_eq_none {s : State} {addr buf len : Nat} (h : TransferOk s addr buf len) :
    transferFault s addr buf len = none := by
  unfold transferFault
  rcases h with hlen | ⟨haddr, hbuf, hlo, hhi, hhost⟩
  · exact if_pos hlen
  · have hspace : ¬ (s.platform.limit < addr + len ∨ s.platform.limit < buf + len) := by omega
    have hwindow : inWindow s addr len := .inr ⟨hlo, hhi⟩
    rw [if_neg hspace, if_neg (not_not.mpr hwindow), if_neg (not_not.mpr hhost), ite_self]

/-- An accepted WRITE_CHUNK whose checks pass comes to its sequence (R211, R212). -/
theorem execWriteChunk_accepted {s : State} (hs : Accepting .writeChunk s) (hpage : s.arg2.toNat ≤ 256)
    (hlen : s.arg2.toNat % 4 = 0) (haddr : s.arg0.toNat % 4 = 0)
    (hok : TransferOk s s.arg0.toNat s.arg1.toNat s.arg2.toNat) :
    exec .writeChunk s = .next (goto .writeChunk .ppCmd
      { snapshot s with addr := s.arg0.toNat, buf := s.arg1.toNat, rem := s.arg2.toNat }
      (acceptedState .writeChunk s)) := by
  obtain ⟨hwf, hfault, hbusy, hhalted, hlife⟩ := hs
  have hparams : ¬ (pageBytes < s.arg2.toNat ∨ s.arg2.toNat % wordBytes ≠ 0 ∨ s.arg0.toNat % wordBytes ≠ 0) := by
    simp only [pageBytes, wordBytes]; omega
  have hchecks : transferFault (acceptedState .writeChunk s) s.arg0.toNat s.arg1.toNat s.arg2.toNat = none :=
    transferFault_eq_none hok
  calc exec .writeChunk s
      = .next (startWriteChunk (snapshot s) (acceptedState .writeChunk s)) :=
        command_accepted hwf hfault hbusy hhalted hlife
    _ = _ := by simp only [startWriteChunk, snapshot, if_neg hparams, hchecks, raiseOr_none]

/-- Settles O29: the command comes to its one sequence, `runMicro_pageProgram` runs it, and `condAt_pageProgrammed` reads
the array off. -/
theorem writeChunkProgramsOneSequence : Obligations.WriteChunkProgramsOneSequence := by
  intro s hs hf hpage hlen haddr hok
  refine ⟨_, execWriteChunk_accepted hs hpage hlen haddr hok, fun ds hds hall => ?_⟩
  have hchunk : min pageBytes s.arg2.toNat = s.arg2.toNat := Nat.min_eq_right hpage
  obtain ⟨j, v, hrun⟩ := runMicro_pageProgram .writeChunk
    { snapshot s with addr := s.arg0.toNat, buf := s.arg1.toNat, rem := s.arg2.toNat }
    (acceptedState .writeChunk s) ds (by simpa [chunkBytes, hchunk] using hds) hall
  refine ⟨_, [], hrun.trans ?_,
    canonical_pageProgrammed (s := acceptedState .writeChunk s) hf s.arg0.toNat s.arg1.toNat s.arg2.toNat,
    condAt_pageProgrammed (s := acceptedState .writeChunk s) hf s.arg0.toNat s.arg1.toNat s.arg2.toNat hlen
      (hok.imp_right fun ⟨_, _, hlo, _⟩ => hlo)⟩
  simp only [chunkBytes, hchunk, List.flatMap_singleton, Nat.add_zero]
  rfl

/-! ### Window reads -/

/-- Settles O46: one case of R90 each. -/
theorem windowReadCases : Obligations.WindowReadCases := by
  intro p c x b
  refine ⟨fun hundef => if_pos hundef, fun hdef hasync hpending => ?_, fun hdef hquiet => ?_⟩
  · rw [windowByte, if_neg (by simp [hdef]), if_pos ⟨hasync, hpending⟩]
  · have hread : windowByte p c x b = (valueOf (condAt c.flash x)).getD b := by
      rw [windowByte, if_neg (by simp [hdef]), if_neg fun h => h.2 (hquiet h.1)]
      cases condAt c.flash x <;> rfl
    refine ⟨fun h => ?_, fun v h => ?_, fun h => ?_⟩ <;> rw [hread, h] <;> rfl

/-! ### Polls -/

theorem failAttempt_chip (ses : Session) (s : State) : (failAttempt ses s).chip = s.chip := by
  unfold failAttempt
  split <;> rfl

theorem contPoll_chip (busy ok : Bool) (ses : Session) (s : State) : (contPoll busy ok ses s).chip = s.chip := by
  unfold contPoll
  split
  · split
    · exact failAttempt_chip ses s
    · rfl
  · split
    · rfl
    · exact failAttempt_chip ses s

/-- Settles O48: the chip is left alone by what follows a POLL, and the answer has one case of R107 each. -/
theorem pollAnswerCases : Obligations.PollAnswerCases := by
  intro s op ses d hseq
  refine ⟨?_, fun hundef => if_pos hundef, fun hdef himm => ?_, fun hdef hasync => ?_⟩
  · rw [microStep_active hseq]
    exact contPoll_chip _ _ ses _
  · rw [pollAnswer, if_neg (by simp [hdef]), himm]
  · rw [pollAnswer, if_neg (by simp [hdef]), hasync]
    cases s.chip.pending <;> rfl

/-! ### The first event of a sequence -/

/-- The first event of a sequence, answered OK, decides whether the chip is undefined from then on (R106). -/
theorem microStep_first_undef {s : State} {op : Instr} {k : Pos} {ses : Session} {d : Draw}
    (hseq : s.seq = .active op k ses) (hk : k = .ppCmd ∨ k = .esCmd) (hok : d.ok = true) :
    (microStep d s).chip.undef = undefOnceBegun s := by
  have hcmd : (emitCmd d s).chip.undef = undefOnceBegun s := by
    rw [emitCmd, hok, configure_ok]
    rfl
  rw [microStep_active hseq]
  rcases hk with rfl | rfl
  · rw [show microAt op .ppCmd ses d s = goto op .ppLoad ses (emitCmd d s) from if_pos hok, goto_chip, hcmd]
  · rw [show microAt op .esCmd ses d s = goto op .esLoad ses (emitCmd d s) from if_pos hok, goto_chip, hcmd]

theorem undefOnceBegun_of_pending {s : State} (hasync : s.platform.eraseCompletion = .async)
    (hpending : s.chip.pending ≠ []) : undefOnceBegun s = true := by
  simp [undefOnceBegun, hasync, hpending]

theorem undefOnceBegun_of_quiet {s : State} (h : s.platform.eraseCompletion = .immediate ∨ s.chip.pending = []) :
    undefOnceBegun s = s.chip.undef := by
  rcases h with h | h <;> simp [undefOnceBegun, h]

/-- Settles O49: after the first event the chip is undefined exactly as `undefOnceBegun` says, in the two cases of R106. -/
theorem sequenceDuringPendingEraseUndefinesChip : Obligations.SequenceDuringPendingEraseUndefinesChip := by
  intro s op k ses d hseq hk hok
  have hfirst := microStep_first_undef hseq hk hok
  exact ⟨fun hasync hpending => hfirst.trans (undefOnceBegun_of_pending hasync hpending),
    fun hquiet => hfirst.trans (undefOnceBegun_of_quiet hquiet)⟩

end Sys2Proof.Proofs
end

section
/-! PROOFS. The command word (30_encoding.md R140, R141, R143, R149) and the STATUS word (R145 to R148). -/

namespace Sys2Proof.Proofs

open Sys2Proof Sys2Proof.Machine

/-! ### The opcode map -/

theorem toNat_opField (v : Word) : (opField v).toNat = v.toNat % 256 := BitVec.toNat_setWidth 8 v

theorem decodeOp_opcode (i : Instr) : decodeOp (opcode i) = .ok i := by cases i <;> rfl

/-- The only way to a command is the arm of its own opcode. -/
theorem toNat_of_decodeOp {op : Byte} {i : Instr} (h : decodeOp op = .ok i) : op.toNat = (opcode i).toNat := by
  unfold decodeOp at h
  split at h <;> cases h
  all_goals next hop => exact hop

/-- The opcode selects the command, and nothing else in the word does (R141, R149). -/
theorem decode_eq_ok_iff {v : Word} {i : Instr} : decode v = .ok i ↔ v.toNat % 256 = (opcode i).toNat := by
  rw [← toNat_opField]
  refine ⟨toNat_of_decodeOp, fun h => ?_⟩
  rw [decode, BitVec.eq_of_toNat_eq h, decodeOp_opcode]

/-- The commands, in the order of R141. -/
def allInstrs : List Instr :=
  [.init, .read, .writeChunk, .write, .eraseSingleBlock, .erase, .getDevices, .eraseBlockRetry, .getBlockSize, .fvbRead,
    .fvbWrite, .eraseBlocks, .getAttributes, .setAttributes, .getPhysicalAddress, .relocate]

theorem mem_allInstrs (i : Instr) : i ∈ allInstrs := by cases i <;> decide

/-- The rows of the opcode map (R141). -/
def opcodeRows : List (Nat × Instr) := allInstrs.map fun i => ((opcode i).toNat, i)

theorem mem_opcodeRows {n : Nat} {i : Instr} : (n, i) ∈ opcodeRows ↔ n = (opcode i).toNat := by
  simp only [opcodeRows, List.mem_map, Prod.mk.injEq]
  constructor
  · rintro ⟨j, -, rfl, rfl⟩
    rfl
  · rintro rfl
    exact ⟨i, mem_allInstrs i, rfl, rfl⟩

/-- Settles O1: the statement's table is `opcodeRows`, and `decode_eq_ok_iff` is membership in it. -/
theorem commandWordDecodesByOpcode : Obligations.CommandWordDecodesByOpcode := by
  intro v i
  show _ ↔ (v.toNat % 256, i) ∈ opcodeRows
  rw [decode_eq_ok_iff, mem_opcodeRows]

/-! ### Reserved opcodes -/

/-- The four ranges of reserved opcodes (R143). -/
abbrev ReservedOp (n : Nat) : Prop :=
  n = 0x00 ∨ (0x09 ≤ n ∧ n ≤ 0x0F) ∨ (0x17 ≤ n ∧ n ≤ 0x1F) ∨ 0x21 ≤ n

theorem not_reservedOp_opcode (i : Instr) : ¬ ReservedOp (opcode i).toNat := by cases i <;> decide

theorem writeCmd_of_reservedOp {v : Word} (h : ReservedOp (v.toNat % 256)) (s : State) :
    writeCmd v s = .next (rejectOpcode v s) := by
  cases hdec : decode v with
  | ok i => exact absurd (decode_eq_ok_iff.mp hdec ▸ h) (not_reservedOp_opcode i)
  | error e => rw [writeCmd, hdec]

/-- A rejected word in the order of R351: FAULT, BUSY, then F_ILLEGAL_OP with the opcode in CMD. -/
theorem rejectOpcode_eq (v : Word) (s : State) :
    rejectOpcode v s =
      if s.fault then s
      else if s.busy then hostFaultEnd .busy (midSequence s.seq) s
      else
        { s with
          cmd := wordOf (v.toNat % 256), fault := true, faultReason := .illegalOp, busy := false, seq := .idle } := by
  rw [rejectOpcode, ← BitVec.ofNat_toNat, toNat_opField]
  rfl

/-! ### The STATUS word -/

theorem lstateCode_le (l : LState) : lstateCode l ≤ 2 := by cases l <;> decide

theorem statusCode_le (c : Status) : statusCode c ≤ 5 := by cases c <;> decide

theorem faultCode_le (r : FaultReason) : faultCode r ≤ 9 := by cases r <;> decide

/-- The fields do not carry into each other, so the sum of R147 fits the word. -/
theorem toNat_statusWord (s : State) :
    (statusWord s).toNat = s.busy.toNat + 2 * lstateCode s.lstate + 8 * s.halted.toNat + 16 * s.fault.toNat +
      256 * statusCode s.resultCode + 65536 * faultCode s.faultReason := by
  have hbusy := s.busy.toNat_le
  have hlstate := lstateCode_le s.lstate
  have hhalted := s.halted.toNat_le
  have hfault := s.fault.toNat_le
  have hcode := statusCode_le s.resultCode
  have hreason := faultCode_le s.faultReason
  rw [statusWord, BitVec.toNat_ofNat]
  omega

theorem getLsbD_eq_of_div_mod {w k : Nat} {x : BitVec w} {b : Bool} (h : x.toNat / 2 ^ k % 2 = b.toNat) :
    x.getLsbD k = b := by
  rw [BitVec.getLsbD, Nat.testBit_eq_decide_div_mod_eq, h]
  cases b <;> rfl

theorem extractLsb'_eq_of_div_mod {w start len n : Nat} {x : BitVec w}
    (h : x.toNat / 2 ^ start % 2 ^ len = n % 2 ^ len) : x.extractLsb' start len = BitVec.ofNat len n :=
  BitVec.eq_of_toNat_eq (by rw [BitVec.extractLsb'_toNat, Nat.shiftRight_eq_div_pow, h, BitVec.toNat_ofNat])

/-- The bits of the STATUS word, each field at its place and the others 0 (R33). -/
theorem statusWord_fields (s : State) :
    (statusWord s).getLsbD 0 = s.busy ∧ (statusWord s).extractLsb' 1 2 = BitVec.ofNat 2 (lstateCode s.lstate) ∧
    (statusWord s).getLsbD 3 = s.halted ∧ (statusWord s).getLsbD 4 = s.fault ∧ (statusWord s).extractLsb' 5 3 = 0 ∧
    (statusWord s).extractLsb' 8 8 = BitVec.ofNat 8 (statusCode s.resultCode) ∧
    (statusWord s).extractLsb' 16 8 = BitVec.ofNat 8 (faultCode s.faultReason) ∧
    (statusWord s).extractLsb' 24 40 = 0 := by
  have hsum := toNat_statusWord s
  have hbusy := s.busy.toNat_le
  have hlstate := lstateCode_le s.lstate
  have hhalted := s.halted.toNat_le
  have hfault := s.fault.toNat_le
  have hcode := statusCode_le s.resultCode
  have hreason := faultCode_le s.faultReason
  refine ⟨getLsbD_eq_of_div_mod ?_, extractLsb'_eq_of_div_mod ?_, getLsbD_eq_of_div_mod ?_, getLsbD_eq_of_div_mod ?_,
    extractLsb'_eq_of_div_mod (n := 0) ?_, extractLsb'_eq_of_div_mod ?_, extractLsb'_eq_of_div_mod ?_,
    extractLsb'_eq_of_div_mod (n := 0) ?_⟩ <;> omega

/-- Settles O7: the sum from `toNat_statusWord`, its bits from `statusWord_fields`, the codes by evaluation. -/
theorem statusWordHoldsItsFields : Obligations.StatusWordHoldsItsFields :=
  ⟨fun s => ⟨toNat_statusWord s, statusWord_fields s⟩, rfl, rfl, rfl⟩

end Sys2Proof.Proofs
end

section
/-! PROOFS. Host accesses to the register bank (30_encoding.md R131 to R136, R143). -/

namespace Sys2Proof.Proofs

open Sys2Proof Sys2Proof.Machine

/-! ### The register at its offset -/

theorem accessedReg_regOffset (r : Reg) : accessedReg (regOffset r) 8 = some r := by cases r <;> rfl

theorem regOffset_lt (r : Reg) : regOffset r < 0x0A0 := by cases r <;> decide

/-- A register of a bank inside the address space has an address (R10, R131). -/
theorem registerOffset_reg {s : State} (hbank : s.platform.BankOk) (r : Reg) :
    registerOffset s (s.platform.blockBase + regOffset r) = some (regOffset r) := by
  have hlt := regOffset_lt r
  rw [registerOffset, if_pos (by omega), Nat.add_sub_cancel_left]

theorem move_hostWrite_reg {s : State} (hbank : s.platform.BankOk) (r : Reg) (v : Word) :
    move (.hostWrite (s.platform.blockBase + regOffset r) 8 v) s = writeReg r v s := by
  simp only [move, hostWrite, registerOffset_reg hbank, accessedReg_regOffset]

theorem move_hostRead_reg {s : State} (hbank : s.platform.BankOk) (r : Reg) :
    move (.hostRead (s.platform.blockBase + regOffset r) 8) s = .next { s with readData := readReg s r } := by
  simp only [move, hostRead, registerOffset_reg hbank, accessedReg_regOffset]

/-- Every offset of the bank that is a multiple of 8 is a register's (R131). -/
theorem exists_regOffset_eq {offset : Nat} (hle : offset ≤ 0x098) (hmul : offset % 8 = 0) :
    ∃ r, regOffset r = offset := by
  have hrow : ∀ m < 20, ∃ r ∈ allRegs, regOffset r = 8 * m := by decide
  obtain ⟨r, -, hr⟩ := hrow (offset / 8) (by omega)
  exact ⟨r, by omega⟩

/-! ### Writes -/

/-- Settles O2: the write reaches CMD, its word is no command, and `rejectOpcode_eq` says what becomes of it. -/
theorem reservedOpcodeFaults : Obligations.ReservedOpcodeFaults := by
  intro s v hbank hreserved
  calc move (.hostWrite (s.platform.blockBase + 0x000) 8 v) s
      = writeCmd v s := move_hostWrite_reg hbank .cmd v
    _ = .next (rejectOpcode v s) := writeCmd_of_reservedOp hreserved s
    _ = _ := congrArg Host.Outcome.next (rejectOpcode_eq v s)

/-- A write to an ARG register: FAULT, then BUSY, then the store (R134). -/
theorem writeArg_eq (store : Word → State → State) (v : Word) (s : State) :
    writeArg store v s =
      if s.fault then s else if s.busy then hostFaultEnd .busy (midSequence s.seq) s
      else store (s.platform.width.trunc v) s := rfl

theorem move_hostWrite_arg {s : State} {r : Reg} {store : Word → State → State} {v : Word}
    (hbank : s.platform.BankOk) (harg : writeReg r v s = .next (writeArg store v s)) :
    move (.hostWrite (s.platform.blockBase + regOffset r) 8 v) s =
      .next (if s.fault then s else if s.busy then hostFaultEnd .busy (midSequence s.seq) s
        else store (s.platform.width.trunc v) s) := by
  rw [move_hostWrite_reg hbank, harg, writeArg_eq]

/-- Settles O9: `move_hostWrite_arg` at each of the four registers. -/
theorem argumentWriteStoresOrFaults : Obligations.ArgumentWriteStoresOrFaults := by
  intro s t offset v hbank hrow
  simp only [List.mem_cons, Prod.mk.injEq, List.not_mem_nil, or_false] at hrow
  rcases hrow with ⟨rfl, rfl⟩ | ⟨rfl, rfl⟩ | ⟨rfl, rfl⟩ | ⟨rfl, rfl⟩
  · exact move_hostWrite_arg (r := .arg0) hbank rfl
  · exact move_hostWrite_arg (r := .arg1) hbank rfl
  · exact move_hostWrite_arg (r := .arg2) hbank rfl
  · exact move_hostWrite_arg (r := .arg3) hbank rfl

/-- From STATUS on, every register is read-only (R133). -/
theorem writeReg_readOnly {r : Reg} (hr : 0x028 ≤ regOffset r) (v : Word) (s : State) : writeReg r v s = .next s := by
  cases r
  case cmd | arg0 | arg1 | arg2 | arg3 => exact absurd hr (by decide)
  all_goals rfl

/-- Settles O10: the offset is a read-only register's. -/
theorem readOnlyWriteIgnored : Obligations.ReadOnlyWriteIgnored := by
  intro s offset v hbank hlo hhi hmul
  obtain ⟨r, rfl⟩ := exists_regOffset_eq hhi hmul
  rw [move_hostWrite_reg hbank, writeReg_readOnly hlo]

/-! ### Reads -/

/-- Settles O6: the rows of the statement are the bank's registers at their offsets, ATTR zero-extended. -/
theorem registerReadHasNoSideEffect : Obligations.RegisterReadHasNoSideEffect := by
  intro s offset v hbank hrow
  rw [show wordOf s.attr.toNat = s.attr.setWidth 64 from BitVec.ofNat_toNat 64 s.attr] at hrow
  change (offset, v) ∈ allRegs.map fun r => (regOffset r, readReg s r) at hrow
  obtain ⟨r, -, hr⟩ := List.mem_map.mp hrow
  obtain ⟨rfl, rfl⟩ := Prod.mk.inj hr
  exact move_hostRead_reg hbank r

end Sys2Proof.Proofs
end

section
/-! PROOFS. The record that each micro-step appends to the bus event history (30_encoding.md R150, R151, R155, R156). -/

namespace Sys2Proof.Proofs

open Sys2Proof Sys2Proof.Machine

/-! ### What a command does between two bus calls appends nothing -/

theorem raiseOr_history {f : Option FaultReason} {go : State → State} {s : State}
    (h : (go s).history = s.history) : (raiseOr f go s).history = s.history := by
  cases f
  · exact h
  · rfl

@[simp] theorem nextByte_history (op : Instr) (ses : Session) (s : State) :
    (nextByte op ses s).history = s.history := by
  unfold nextByte
  split <;> rfl

@[simp] theorem nextChunk_history (op : Instr) (ses : Session) (s : State) :
    (nextChunk op ses s).history = s.history := by
  unfold nextChunk
  split <;> rfl

@[simp] theorem nextUnit_history (ses : Session) (s : State) : (nextUnit ses s).history = s.history := by
  unfold nextUnit
  split <;> rfl

@[simp] theorem nextPair_history (ses : Session) (s : State) : (nextPair ses s).history = s.history :=
  raiseOr_history rfl

@[simp] theorem nextPairUnit_history (ses : Session) (s : State) : (nextPairUnit ses s).history = s.history := by
  unfold nextPairUnit
  split
  · exact nextPair_history ses s
  · rfl

@[simp] theorem failAttempt_history (ses : Session) (s : State) : (failAttempt ses s).history = s.history := by
  unfold failAttempt
  split <;> rfl

@[simp] theorem nextWord_history (op : Instr) (i : Nat) (ses : Session) (s : State) :
    (nextWord op i ses s).history = s.history := by
  unfold nextWord
  split <;> rfl

@[simp] theorem afterCopy_history (op : Instr) (ses : Session) (s : State) :
    (afterCopy op ses s).history = s.history := by
  cases op
  case read | fvbRead => exact nextByte_history _ _ s
  all_goals rfl

@[simp] theorem afterProgram_history (op : Instr) (st : Status) (ses : Session) (s : State) :
    (afterProgram op st ses s).history = s.history := by
  cases op
  case write | fvbWrite =>
    simp only [afterProgram, contWrite, contFvbWrite]
    split
    · rfl
    · exact nextChunk_history _ _ s
  all_goals rfl

@[simp] theorem afterErase_history (op : Instr) (st : Status) (ses : Session) (s : State) :
    (afterErase op st ses s).history = s.history := by
  cases op
  case erase =>
    simp only [afterErase, contErase]
    split
    · rfl
    · exact nextUnit_history _ s
  case eraseBlocks =>
    simp only [afterErase, contEraseBlocks]
    split
    · rfl
    · exact nextPairUnit_history _ s
  case eraseBlockRetry =>
    simp only [afterErase, contEraseBlockRetry]
    split
    · rfl
    · exact failAttempt_history _ s
  all_goals rfl

@[simp] theorem contPoll_history (busy ok : Bool) (ses : Session) (s : State) :
    (contPoll busy ok ses s).history = s.history := by
  unfold contPoll
  split
  · split
    · exact failAttempt_history ses s
    · rfl
  · split
    · rfl
    · exact failAttempt_history ses s

@[simp] theorem contListLba_history (l : Nat) (ses : Session) (s : State) :
    (contListLba l ses s).history = s.history := by
  unfold contListLba
  split
  · rfl
  · exact raiseOr_history rfl

@[simp] theorem contListNum_history (n : Nat) (ses : Session) (s : State) :
    (contListNum n ses s).history = s.history := by
  simp only [contListNum]
  split
  · exact nextPairUnit_history _ s
  · exact nextPair_history _ s

@[simp] theorem contGetDevices_history (ses : Session) (s : State) : (contGetDevices ses s).history = s.history := by
  unfold contGetDevices
  split <;> rfl

/-- A configure event goes on or ends its sequence; neither appends to what the event left. -/
theorem ite_history {c : Prop} [Decidable c] {t u v : State} (hu : u.history = t.history)
    (hv : v.history = t.history) : (if c then u else v).history = t.history := by
  split
  · exact hu
  · exact hv

/-! ### The opcodes of CMDSET -/

theorem setWidth_ppOpOf (v : Word) : (ppOpOf v).setWidth 64 = wordOf (v.toNat / 65536 % 256) := by
  rw [← BitVec.ofNat_toNat, ppOpOf, BitVec.extractLsb'_toNat, Nat.shiftRight_eq_div_pow]

theorem setWidth_eraseOpOf (v : Word) : (eraseOpOf v).setWidth 64 = wordOf (v.toNat / 256 % 256) := by
  rw [← BitVec.ofNat_toNat, eraseOpOf, BitVec.extractLsb'_toNat, Nat.shiftRight_eq_div_pow]

/-! ### The record of each event -/

/-- The record of a configure event (R150, R155). -/
def configureRecord (kind : EventKind) (reg value : Word) (p : Port) (d : Draw) (s : State) : BusEvent :=
  ⟨s.history.length, kind, some reg, some value, some (portAddr s p), if d.ok then .ok else .error⟩

theorem emitCmd_history (d : Draw) (s : State) : (emitCmd d s).history = s.history ++
    [configureRecord .cfgCmd (wordOf (s.cmdset.toNat / 65536 % 256)) s.platform.ctrlFixed .command d s] := by
  rw [← setWidth_ppOpOf]
  rfl

theorem emitLoad_history (d : Draw) (s : State) : (emitLoad d s).history = s.history ++
    [configureRecord .cfgLoad (wordOf (s.cmdset.toNat / 65536 % 256)) s.platform.loadValue .load d s] := by
  rw [← setWidth_ppOpOf]
  rfl

theorem emitWcfg_history (v : Word) (d : Draw) (s : State) : (emitWcfg v d s).history = s.history ++
    [configureRecord .cfgWcfg s.platform.regWcfg v .writeConfig d s] := rfl

theorem emitFlush_history (d : Draw) (s : State) : (emitFlush d s).history = s.history ++
    [configureRecord .cfgFlush s.platform.regFlush s.platform.flushValue .flush d s] := by
  simp only [emitFlush]
  split <;> rfl

theorem emitAddr_history (b : Nat) (d : Draw) (s : State) : (emitAddr b d s).history = s.history ++
    [configureRecord .cfgAddr (wordOf (s.cmdset.toNat / 256 % 256)) (wordOf b) .address d s] := by
  rw [← setWidth_eraseOpOf]
  rfl

theorem emitLatch_history (b : Nat) (d : Draw) (s : State) : (emitLatch b d s).history = s.history ++
    [configureRecord .cfgLoad (wordOf (s.cmdset.toNat / 256 % 256)) s.platform.loadValue .load d s] := by
  rw [← setWidth_eraseOpOf]
  simp only [emitLatch]
  split <;> rfl

theorem emitData_setWidth_history (a : Nat) (w : Word) (s : State) : (emitData a (w.setWidth 32) s).history =
    s.history ++ [⟨s.history.length, .data, none, some (wordOf (w.toNat % 2 ^ 32)), some a, .ok⟩] := by
  rw [emitData_history, ← BitVec.ofNat_toNat 64, BitVec.toNat_setWidth]

/-! ### Every position -/

/-- Settles O41: the record is that of the position's event, and what follows the event appends nothing. -/
theorem microStepEmitsItsEvent : Obligations.MicroStepEmitsItsEvent := by
  intro s op k ses d hseq
  rw [microStep_active hseq]
  cases k
  case winRead | ppFetch => exact (List.append_nil _).symm
  case memWrite => exact (afterCopy_history ..).trans (List.append_nil _).symm
  case listLba => exact (contListLba_history ..).trans (List.append_nil _).symm
  case listNum => exact (contListNum_history ..).trans (List.append_nil _).symm
  case record => exact (contGetDevices_history ..).trans (List.append_nil _).symm
  case ppCmd => exact (ite_history (goto_history ..) (afterProgram_history ..)).trans (emitCmd_history d s)
  case ppLoad => exact (ite_history (goto_history ..) (afterProgram_history ..)).trans (emitLoad_history d s)
  case ppWe => exact (ite_history (nextWord_history ..) (afterProgram_history ..)).trans (emitWcfg_history _ d s)
  case ppData => exact (nextWord_history ..).trans (emitData_setWidth_history (wordAddr ses) ses.datum s)
  case ppFlush => exact (ite_history (goto_history ..) (afterProgram_history ..)).trans (emitFlush_history d s)
  case ppClear => exact (ite_history (afterProgram_history ..) (afterProgram_history ..)).trans (emitWcfg_history _ d s)
  case esCmd => exact (ite_history (goto_history ..) (afterErase_history ..)).trans (emitCmd_history d s)
  case esLoad => exact (ite_history (goto_history ..) (afterErase_history ..)).trans (emitLoad_history d s)
  case esAddr => exact (ite_history (goto_history ..) (afterErase_history ..)).trans (emitAddr_history _ d s)
  case esLatch => exact (ite_history (afterErase_history ..) (afterErase_history ..)).trans (emitLatch_history _ d s)
  case poll => exact contPoll_history ..

end Sys2Proof.Proofs
end

section
/-! PROOFS. The commands that end in the step of their CMD write: INIT, and the refused parameters of WRITE_CHUNK, WRITE
and ERASE (40_engine.md R202, R203, R211, R217, R225). -/

namespace Sys2Proof.Proofs

open Sys2Proof Sys2Proof.Machine

/-! ### An accepted command -/

theorem command_accepting {i : Instr} {s : State} (hs : Accepting i s) (start : Session → State → State) :
    command i start s = .next (start (snapshot s) (acceptedState i s)) := by
  obtain ⟨hwf, hfault, hbusy, hhalted, hlife⟩ := hs
  exact command_accepted hwf hfault hbusy hhalted hlife

theorem trunc_zero (w : Width) : w.trunc (wordOf 0) = 0 := by
  cases w <;> rfl

/-- A command that finishes before its first micro-step has begun no sequence (R354, R42). -/
theorem finish_acceptedState (i : Instr) (c : Status) (s : State) :
    finish c (acceptedState i s) = ended i c 0 s := by
  rw [ended, trunc_zero]
  rfl

/-- An accepted command whose pseudocode finishes at once leaves CMD, OPCOUNT = 0 and its result code (R351, R354). -/
theorem command_finishes {i : Instr} {s : State} (hs : Accepting i s) {start : Session → State → State} {c : Status}
    (hstart : start (snapshot s) (acceptedState i s) = finish c (acceptedState i s)) :
    command i start s = .next (ended i c 0 s) := by
  rw [command_accepting hs, hstart, finish_acceptedState]

/-! ### INIT -/

/-- The three opcodes side by side in CMDSET (R43). -/
theorem cmdsetOf_eq (pp er wr : Byte) :
    cmdsetOf pp er wr = wordOf (65536 * pp.toNat + 256 * er.toNat + wr.toNat) := by
  have her := er.isLt
  have hwr := wr.isLt
  rw [cmdsetOf, ← BitVec.ofNat_toNat, BitVec.toNat_append, BitVec.toNat_append,
    ← Nat.shiftLeft_add_eq_or_of_lt her, ← Nat.shiftLeft_add_eq_or_of_lt hwr]
  congr 1
  simp only [Nat.shiftLeft_eq]
  omega

/-- TAG_LO is the low half of the tag (R52). -/
theorem tagLo_eq (tag : BitVec 128) : tag.extractLsb' 0 64 = wordOf (tag.toNat % 2 ^ 64) :=
  extractLsb'_eq_of_div_mod (by omega)

/-- TAG_HI is the high half of the tag (R52). -/
theorem tagHi_eq (tag : BitVec 128) : tag.extractLsb' 64 64 = wordOf (tag.toNat / 2 ^ 64) :=
  extractLsb'_eq_of_div_mod rfl

/-- Settles O15: past its three checks INIT finishes with `loadConfiguration`, whose packed fields are `cmdsetOf_eq`,
`tagLo_eq` and `tagHi_eq`. -/
theorem initLoadsConfiguration : Obligations.InitLoadsConfiguration := by
  intro s hs hpresent hcapability hresources
  have hstart : startInit (snapshot s) (acceptedState .init s) =
      finish .success (loadConfiguration (acceptedState .init s)) := by
    simp [startInit, hpresent, hcapability, hresources]
  refine (command_accepting hs startInit).trans ?_
  rw [hstart, ← cmdsetOf_eq, ← tagLo_eq, ← tagHi_eq, ← finish_acceptedState]
  rfl

/-- Settles O16: each check stops INIT when those before it pass (R202). -/
theorem initFailureChangesOnlyResultCode : Obligations.InitFailureChangesOnlyResultCode := by
  intro s hs
  refine ⟨fun hpresent => ?_, fun hpresent hcapability => ?_, fun hpresent hcapability hresources => ?_⟩
  · exact command_finishes (start := startInit) hs (by simp [startInit, hpresent])
  · exact command_finishes (start := startInit) hs (by simp [startInit, hpresent, hcapability])
  · exact command_finishes (start := startInit) hs (by simp [startInit, hpresent, hcapability, hresources])

/-! ### Refused parameters -/

/-- Settles O21: the parameter check comes first in each of the three pseudocodes (R211, R217, R225). -/
theorem writeAndEraseParameterErrors : Obligations.WriteAndEraseParameterErrors := by
  refine ⟨fun s hs hbad => ?_, fun s hs hbad => ?_, fun s hs hbad => ?_⟩
  · exact command_finishes (start := startWriteChunk) hs (if_pos hbad)
  · exact command_finishes (start := startWrite) hs (if_pos hbad)
  · exact command_finishes (start := startErase) hs (if_pos hbad)

end Sys2Proof.Proofs
end

section
/-! PROOFS. A chunked write (40_engine.md R214, R215): page programs one after another, every answer OK. -/

namespace Sys2Proof.Proofs

open Sys2Proof Sys2Proof.Machine

/-! ### The chunks of a write -/

/-- The first chunk of a write, and the chunks of what remains, moved up by it (R214). -/
theorem chunkList_eq_cons {len : Nat} (hlen : len ≠ 0) :
    chunkList len = (0, min pageBytes len) ::
      (chunkList (len - min pageBytes len)).map fun c => (min pageBytes len + c.1, c.2) := by
  have hcount : (len + 255) / 256 = (len - min pageBytes len + 255) / 256 + 1 := by simp only [pageBytes]; omega
  simp only [chunkList, hcount, List.range_succ_eq_map, List.map_cons, List.map_map]
  refine congrArg₂ List.cons rfl (List.map_congr_left fun k hk => ?_)
  rw [List.mem_range] at hk
  simp only [Function.comp_apply, pageBytes, Prod.mk.injEq] at hk ⊢
  omega

/-- Strong induction over the bytes that remain of a chunked write, a chunk at a time (R214). -/
theorem chunk_induction {P : Nat → Prop} (done : P 0)
    (chunk : ∀ len, len ≠ 0 → P (len - min pageBytes len) → P len) (len : Nat) : P len := by
  induction len using Nat.strongRecOn with
  | ind len ih =>
    by_cases hlen : len = 0
    · exact hlen ▸ done
    · exact chunk len hlen (ih _ (by simp only [pageBytes]; omega))

/-! ### What one page program leaves -/

theorem pageProgrammed_undef (addr buf len : Nat) (s : State) :
    (pageProgrammed addr buf len s).chip.undef = undefOnceBegun s := rfl

theorem pageProgrammed_devBase (addr buf len : Nat) (s : State) :
    (pageProgrammed addr buf len s).devBase = s.devBase := rfl

theorem pageProgrammed_mem (addr buf len : Nat) (s : State) : (pageProgrammed addr buf len s).mem = s.mem := rfl

theorem pageProgrammed_history (addr buf len : Nat) (s : State) :
    (pageProgrammed addr buf len s).history =
      s.history ++ answeredOk s.history.length (programEvents s addr buf len) := rfl

/-- PENDING stays as it is, so every sequence of a command sees the chip in the same way (R106). -/
theorem undefOnceBegun_pageProgrammed (addr buf len : Nat) (s : State) :
    undefOnceBegun (pageProgrammed addr buf len s) = undefOnceBegun s :=
  (Bool.or_assoc _ _ _).trans (congrArg _ (Bool.or_self _))

/-! ### Page programs in a row -/

/-- `s` after a page program of each chunk, at its offset from `addr` and `buf`, every answer OK (R215). -/
def chunksProgrammed (addr buf : Nat) (chunks : List (Nat × Nat)) (s : State) : State :=
  chunks.foldl (fun t c => pageProgrammed (addr + c.1) (buf + c.1) c.2 t) s

theorem chunksProgrammed_cons (addr buf : Nat) (c : Nat × Nat) (cs : List (Nat × Nat)) (s : State) :
    chunksProgrammed addr buf (c :: cs) s =
      chunksProgrammed addr buf cs (pageProgrammed (addr + c.1) (buf + c.1) c.2 s) := rfl

theorem chunksProgrammed_shift (addr buf n : Nat) (cs : List (Nat × Nat)) (s : State) :
    chunksProgrammed addr buf (cs.map fun c => (n + c.1, c.2)) s = chunksProgrammed (addr + n) (buf + n) cs s := by
  simp only [chunksProgrammed, List.foldl_map, Nat.add_assoc]

/-- A chunked write programs its first chunk, then what remains from there on (R214). -/
theorem chunksProgrammed_chunkList {len : Nat} (hlen : len ≠ 0) (addr buf : Nat) (s : State) :
    chunksProgrammed addr buf (chunkList len) s =
      chunksProgrammed (addr + min pageBytes len) (buf + min pageBytes len) (chunkList (len - min pageBytes len))
        (pageProgrammed addr buf (min pageBytes len) s) := by
  rw [chunkList_eq_cons hlen, chunksProgrammed_cons, chunksProgrammed_shift]
  rfl

/-- OPCOUNT, a `W`-bit register, counts one more sequence (R42). -/
theorem trunc_trunc_add_one (w : Width) (n : Nat) : w.trunc (w.trunc (wordOf n) + 1) = w.trunc (wordOf (n + 1)) := by
  cases w with
  | w64 => exact (BitVec.ofNat_add n 1).symm
  | w32 => exact BitVec.eq_of_toNat_eq (by simp [Width.trunc])

/-- Page programs in a row change OPCOUNT, the history and the chip: one sequence a chunk, the chunks' events in order
(R42, R155, R106). -/
theorem chunksProgrammed_eq (addr buf n : Nat) (chunks : List (Nat × Nat)) (s : State)
    (hcount : s.opcount = s.platform.width.trunc (wordOf n)) :
    chunksProgrammed addr buf chunks s =
      { s with
        opcount := s.platform.width.trunc (wordOf (n + chunks.length))
        history := s.history ++ answeredOk s.history.length
          (chunks.flatMap fun c => programEvents s (addr + c.1) (buf + c.1) c.2)
        chip := { s.chip with
          flash := (chunksProgrammed addr buf chunks s).chip.flash
          undef := if chunks = [] then s.chip.undef else undefOnceBegun s
          page := (chunksProgrammed addr buf chunks s).chip.page } } := by
  induction chunks generalizing s n with
  | nil => simp [chunksProgrammed, ← hcount]
  | cons c cs ih =>
    have hfirst : (pageProgrammed (addr + c.1) (buf + c.1) c.2 s).opcount = s.platform.width.trunc (wordOf (n + 1)) :=
      (congrArg (fun v => s.platform.width.trunc (v + 1)) hcount).trans (trunc_trunc_add_one _ n)
    have hundef : (if cs = [] then (pageProgrammed (addr + c.1) (buf + c.1) c.2 s).chip.undef
        else undefOnceBegun (pageProgrammed (addr + c.1) (buf + c.1) c.2 s)) = undefOnceBegun s := by
      rw [undefOnceBegun_pageProgrammed, pageProgrammed_undef, ite_self]
    refine (ih (n + 1) _ hfirst).trans ?_
    rw [hundef, ← chunksProgrammed_cons, pageProgrammed_history, List.append_assoc, List.length_append,
      length_answeredOk, ← answeredOk_append, Nat.add_assoc, Nat.add_comm 1]
    rfl

theorem canonical_chunksProgrammed {s : State} (hf : canonicalFlash s.chip.flash = true) (addr buf : Nat)
    (chunks : List (Nat × Nat)) : canonicalFlash (chunksProgrammed addr buf chunks s).chip.flash = true := by
  induction chunks generalizing s with
  | nil => exact hf
  | cons c cs ih => exact ih (canonical_pageProgrammed hf _ _ _)

/-- Each byte of the array after a chunked write of whole words inside the window (R97, R98, R101, R214). -/
theorem condAt_chunksProgrammed {s : State} (hf : canonicalFlash s.chip.flash = true) (addr buf len : Nat)
    (hlen : len % 4 = 0) (hbase : len = 0 ∨ s.devBase.toNat ≤ addr) (x : Nat) :
    condAt (chunksProgrammed addr buf (chunkList len) s).chip.flash x =
      if addr - s.devBase.toNat ≤ x ∧ x < addr - s.devBase.toNat + len then
        if condAt s.chip.flash x = .erased ∧ undefOnceBegun s = false then
          .programmed (readByte s.mem (buf + (x - (addr - s.devBase.toNat))))
        else .undefined
      else condAt s.chip.flash x := by
  induction len using chunk_induction generalizing addr buf s with
  | done => rw [if_neg (by omega)]; rfl
  | chunk len hne ih =>
    have hchunk := condAt_pageProgrammed hf addr buf (min pageBytes len) (by simp only [pageBytes]; omega) (by omega) x
    rw [chunksProgrammed_chunkList hne, ih (canonical_pageProgrammed hf _ _ _) _ _
      (by simp only [pageBytes]; omega) (.inr (hbase.elim (absurd · hne) (Nat.le_add_right_of_le ·))),
      undefOnceBegun_pageProgrammed, pageProgrammed_devBase, pageProgrammed_mem]
    by_cases hrest : addr + min pageBytes len - s.devBase.toNat ≤ x ∧
        x < addr + min pageBytes len - s.devBase.toNat + (len - min pageBytes len)
    · have hbyte : buf + min pageBytes len + (x - (addr + min pageBytes len - s.devBase.toNat)) =
          buf + (x - (addr - s.devBase.toNat)) := by omega
      have hall : addr - s.devBase.toNat ≤ x ∧ x < addr - s.devBase.toNat + len := by omega
      rw [if_pos hrest, hchunk.trans (if_neg (by omega)), if_pos hall, hbyte]
    · rw [if_neg hrest, hchunk]
      exact if_congr (by omega) rfl rfl

/-! ### The micro-steps of a chunked write -/

/-- The command goes on with its next chunk whenever a page program of it has succeeded (R215, R286). -/
def WritesByChunks (i : Instr) : Prop :=
  ∀ (ses : Session) (t : State), afterProgram i .success ses t = nextChunk i (advanceChunk ses) t

theorem writesByChunks_write : WritesByChunks .write := fun _ _ => rfl

/-- From its first chunk on a chunked write programs every chunk and finishes, every answer OK and nothing between its
micro-steps (R214, R215). -/
theorem runMicro_chunks {i : Instr} (hi : WritesByChunks i) (len : Nat) (ses : Session) (hrem : ses.rem = len)
    (s : State) (ds : List Draw) (hds : ds.length = ((chunkList len).map fun c => 5 + 2 * (c.2 / 4)).sum)
    (hok : AllOk ds) :
    runMicro ds (nextChunk i ses s) = finish .success (chunksProgrammed ses.addr ses.buf (chunkList len) s) := by
  induction len using chunk_induction generalizing ses s ds with
  | done =>
    rw [List.length_eq_zero_iff.mp hds]
    exact if_pos hrem
  | chunk len hne ih =>
    have hchunk : chunkBytes ses = min pageBytes len := by rw [chunkBytes, hrem]
    have hstart : nextChunk i ses s = goto i .ppCmd ses s := if_neg (hrem ▸ hne)
    rw [chunkList_eq_cons hne, List.map_cons, List.map_map, List.sum_cons] at hds
    obtain ⟨j, v, hprogram⟩ := runMicro_pageProgram i ses s (ds.take (5 + 2 * (chunkBytes ses / 4)))
      (by rw [List.length_take, hchunk]; exact Nat.min_eq_left (by omega)) fun d hd => hok d (List.mem_of_mem_take hd)
    have hrest := ih (advanceChunk { ses with idx := j, datum := v }) (by rw [← hrem]; rfl)
      (pageProgrammed ses.addr ses.buf (chunkBytes ses) s) (ds.drop (5 + 2 * (chunkBytes ses / 4)))
      (by rw [List.length_drop, hds, hchunk]; exact Nat.add_sub_cancel_left ..)
      fun d hd => hok d (List.mem_of_mem_drop hd)
    rw [← List.take_append_drop (5 + 2 * (chunkBytes ses / 4)) ds, runMicro_append, hstart, hprogram, hi, hrest,
      chunksProgrammed_chunkList hne, hchunk]
    simp only [advanceChunk, chunkBytes, hrem]

/-- A chunked write whose checks pass does the run of R214 and R215: `runMicro_chunks` runs it, `chunksProgrammed_eq`
says what changed, and `condAt_chunksProgrammed` reads the array off. -/
theorem programRun_chunks {i : Instr} (hi : WritesByChunks i) {s : State} {ses : Session}
    (hexec : exec i s = .next (nextChunk i ses (acceptedState i s))) (hf : canonicalFlash s.chip.flash = true)
    (hlen : ses.rem % 4 = 0) (hbase : ses.rem = 0 ∨ s.devBase.toNat ≤ ses.addr) :
    programRun i ses.addr ses.buf ses.rem (chunkList ses.rem) s := by
  refine ⟨_, hexec, fun ds hds hok =>
    ⟨_, (chunksProgrammed ses.addr ses.buf (chunkList ses.rem) (acceptedState i s)).chip.page, ?_,
    canonical_chunksProgrammed (s := acceptedState i s) hf ses.addr ses.buf (chunkList ses.rem),
    condAt_chunksProgrammed (s := acceptedState i s) hf ses.addr ses.buf ses.rem hlen hbase⟩⟩
  rw [runMicro_chunks hi ses.rem ses rfl (acceptedState i s) ds hds hok,
    chunksProgrammed_eq _ _ 0 _ _ (trunc_zero _).symm, Nat.zero_add]
  rfl

/-! ### WRITE -/

/-- An accepted WRITE whose checks pass comes to its first chunk (R215, R217). -/
theorem execWrite_accepted {s : State} (hs : Accepting .write s) (hlen : s.arg2.toNat % 4 = 0)
    (haddr : s.arg0.toNat % 4 = 0) (hok : TransferOk s s.arg0.toNat s.arg1.toNat s.arg2.toNat) :
    exec .write s = .next (nextChunk .write
      { snapshot s with addr := s.arg0.toNat, buf := s.arg1.toNat, rem := s.arg2.toNat }
      (acceptedState .write s)) := by
  have hparams : ¬ (s.arg0.toNat % wordBytes ≠ 0 ∨ s.arg2.toNat % wordBytes ≠ 0) := by
    simp only [wordBytes]; omega
  have hchecks : transferFault (acceptedState .write s) s.arg0.toNat s.arg1.toNat s.arg2.toNat = none :=
    transferFault_eq_none hok
  calc exec .write s
      = .next (startWrite (snapshot s) (acceptedState .write s)) := command_accepting hs startWrite
    _ = _ := by simp only [startWrite, snapshot, if_neg hparams, hchecks, raiseOr_none]

/-- Settles O30: the command comes to its first chunk, and WRITE is a write by chunks. -/
theorem writeProgramsChunksInOrder : Obligations.WriteProgramsChunksInOrder := by
  intro s hs hf hlen haddr hok
  exact programRun_chunks writesByChunks_write (execWrite_accepted hs hlen haddr hok) hf hlen
    (hok.imp_right fun ⟨_, _, hlo, _⟩ => hlo)

end Sys2Proof.Proofs
end

section
/-! PROOFS. The block facade's commands that end in the step of their CMD write: GET_BLOCK_SIZE, GET_PHYSICAL_ADDRESS,
and the refused ranges of FVB_READ and FVB_WRITE (42_facade.md R284 to R287, R296). -/

namespace Sys2Proof.Proofs

open Sys2Proof Sys2Proof.Machine

/-- A command that returns RESULT0 before its first micro-step has begun no sequence (R354, R355, R42). -/
theorem finishResult_acceptedState (i : Instr) (r0 : Word) (s : State) :
    finishResult r0 (acceptedState i s) = { ended i .success 0 s with result0 := r0 } :=
  congrArg (fun t => { t with result0 := r0 }) (finish_acceptedState i .success s)

/-- The same for RESULT0 and RESULT1. -/
theorem finishResults_acceptedState (i : Instr) (r0 r1 : Word) (s : State) :
    finishResults r0 r1 (acceptedState i s) = { ended i .success 0 s with result0 := r0, result1 := r1 } :=
  congrArg (fun t => { t with result0 := r0, result1 := r1 }) (finish_acceptedState i .success s)

/-- Settles O17: the LBA check decides between the two ends of the pseudocode (R284). -/
theorem getBlockSizeReturnsSizeAndRemaining : Obligations.GetBlockSizeReturnsSizeAndRemaining := by
  intro s hs
  refine ⟨fun hlba => ?_, fun hlba => ?_⟩
  · have hstart : startGetBlockSize (snapshot s) (acceptedState .getBlockSize s) =
        finishResults s.blockSize (wordOf (s.totalBlocks.toNat - s.arg0.toNat)) (acceptedState .getBlockSize s) :=
      if_neg (Nat.not_le.mpr hlba)
    refine (command_accepting hs startGetBlockSize).trans ?_
    rw [hstart, finishResults_acceptedState]
  · exact command_finishes (start := startGetBlockSize) hs (if_pos hlba)

/-- Settles O19: the pseudocode is one `finishResult` (R296). -/
theorem getPhysicalAddressReturnsRegionBase : Obligations.GetPhysicalAddressReturnsRegionBase := by
  intro s hs
  refine (command_accepting hs startGetPhysicalAddress).trans ?_
  exact congrArg _ (finishResult_acceptedState .getPhysicalAddress s.regionBase s)

/-- Settles O22: the checks of both pseudocodes in a row are one check of their disjunction (R285 to R287). -/
theorem facadeRangeErrors : Obligations.FacadeRangeErrors := by
  refine ⟨fun s hs hbad => ?_, fun s hs hbad => ?_⟩
  · refine command_finishes (start := startFvbRead) hs ?_
    simp only [startFvbRead, ← ite_or]
    exact if_pos hbad
  · refine command_finishes (start := startFvbWrite) hs ?_
    simp only [startFvbWrite, ← ite_or]
    exact if_pos hbad

end Sys2Proof.Proofs
end

section
/-! PROOFS. Registers that no running command reads: the operands, of which it holds a snapshot (10_state.md R48), and
ATTR (42_facade.md R295). -/

namespace Sys2Proof.Proofs

open Sys2Proof Sys2Proof.Machine

/-- A change of the ARG registers and ATTR, one function for each; the default leaves the register as it is. -/
structure UnreadEdit where
  arg0 : Word → Word := id
  arg1 : Word → Word := id
  arg2 : Word → Word := id
  arg3 : Word → Word := id
  attr : BitVec 32 → BitVec 32 := id

/-- `s` with the ARG registers and ATTR changed. -/
def edited (e : UnreadEdit) (s : State) : State :=
  { s with
    arg0 := e.arg0 s.arg0
    arg1 := e.arg1 s.arg1
    arg2 := e.arg2 s.arg2
    arg3 := e.arg3 s.arg3
    attr := e.attr s.attr }

/-! ### Branches -/

/-- Two branches that each commute with the edit do so together. -/
theorem ite_edited {c : Prop} [Decidable c] {e : UnreadEdit} {t t' u u' : State} (ht : t' = edited e t)
    (hu : u' = edited e u) : (if c then t' else u') = edited e (if c then t else u) := by
  rw [ht, hu, apply_ite (edited e)]

/-- A check whose continuation commutes with the edit commutes with it; a raised fault does in any case (R360). -/
theorem raiseOr_edited {f : Option FaultReason} {go : State → State} {e : UnreadEdit} {s : State}
    (h : go (edited e s) = edited e (go s)) : raiseOr f go (edited e s) = edited e (raiseOr f go s) := by
  cases f
  · exact h
  · rfl

/-! ### What a command does between two micro-steps -/

theorem nextByte_edited (op : Instr) (ses : Session) (e : UnreadEdit) (s : State) :
    nextByte op ses (edited e s) = edited e (nextByte op ses s) := ite_edited rfl rfl

theorem nextChunk_edited (op : Instr) (ses : Session) (e : UnreadEdit) (s : State) :
    nextChunk op ses (edited e s) = edited e (nextChunk op ses s) := ite_edited rfl rfl

theorem nextUnit_edited (ses : Session) (e : UnreadEdit) (s : State) :
    nextUnit ses (edited e s) = edited e (nextUnit ses s) := ite_edited rfl rfl

theorem nextPair_edited (ses : Session) (e : UnreadEdit) (s : State) :
    nextPair ses (edited e s) = edited e (nextPair ses s) := raiseOr_edited rfl

theorem nextPairUnit_edited (ses : Session) (e : UnreadEdit) (s : State) :
    nextPairUnit ses (edited e s) = edited e (nextPairUnit ses s) := ite_edited (nextPair_edited ses e s) rfl

theorem nextWord_edited (op : Instr) (i : Nat) (ses : Session) (e : UnreadEdit) (s : State) :
    nextWord op i ses (edited e s) = edited e (nextWord op i ses s) := ite_edited rfl rfl

theorem failAttempt_edited (ses : Session) (e : UnreadEdit) (s : State) :
    failAttempt ses (edited e s) = edited e (failAttempt ses s) := ite_edited rfl rfl

theorem afterCopy_edited (op : Instr) (ses : Session) (e : UnreadEdit) (s : State) :
    afterCopy op ses (edited e s) = edited e (afterCopy op ses s) := by
  cases op
  case read | fvbRead => exact nextByte_edited ..
  all_goals rfl

theorem afterProgram_edited (op : Instr) (st : Status) (ses : Session) (e : UnreadEdit) (s : State) :
    afterProgram op st ses (edited e s) = edited e (afterProgram op st ses s) := by
  cases op
  case write | fvbWrite => exact ite_edited rfl (nextChunk_edited ..)
  all_goals rfl

theorem afterErase_edited (op : Instr) (st : Status) (ses : Session) (e : UnreadEdit) (s : State) :
    afterErase op st ses (edited e s) = edited e (afterErase op st ses s) := by
  cases op
  case erase => exact ite_edited rfl (nextUnit_edited ..)
  case eraseBlocks => exact ite_edited rfl (nextPairUnit_edited ..)
  case eraseBlockRetry => exact ite_edited rfl (failAttempt_edited ..)
  all_goals rfl

theorem contPoll_edited (busy ok : Bool) (ses : Session) (e : UnreadEdit) (s : State) :
    contPoll busy ok ses (edited e s) = edited e (contPoll busy ok ses s) :=
  ite_edited (ite_edited (failAttempt_edited ..) rfl) (ite_edited rfl (failAttempt_edited ..))

theorem contListLba_edited (l : Nat) (ses : Session) (e : UnreadEdit) (s : State) :
    contListLba l ses (edited e s) = edited e (contListLba l ses s) := ite_edited rfl (raiseOr_edited rfl)

theorem contListNum_edited (n : Nat) (ses : Session) (e : UnreadEdit) (s : State) :
    contListNum n ses (edited e s) = edited e (contListNum n ses s) :=
  ite_edited (nextPairUnit_edited ..) (nextPair_edited ..)

theorem contGetDevices_edited (ses : Session) (e : UnreadEdit) (s : State) :
    contGetDevices ses (edited e s) = edited e (contGetDevices ses s) := ite_edited rfl rfl

theorem emitFlush_edited (d : Draw) (e : UnreadEdit) (s : State) :
    emitFlush d (edited e s) = edited e (emitFlush d s) := ite_edited rfl rfl

theorem emitLatch_edited (b : Nat) (d : Draw) (e : UnreadEdit) (s : State) :
    emitLatch b d (edited e s) = edited e (emitLatch b d s) := ite_edited rfl rfl

/-! ### Micro-steps -/

/-- At each position the bus or memory call reads no edited register, and neither does what follows it (R48, R295). -/
theorem microAt_edited (op : Instr) (k : Pos) (ses : Session) (d : Draw) (e : UnreadEdit) (s : State) :
    microAt op k ses d (edited e s) = edited e (microAt op k ses d s) := by
  cases k
  case winRead | ppFetch => rfl
  case memWrite => exact afterCopy_edited op ses e (memWrite ses.buf 1 ses.datum.toNat s)
  case listLba => exact contListLba_edited ..
  case listNum => exact contListNum_edited ..
  case record =>
    exact contGetDevices_edited ses e
      (memWrite (ses.buf + fieldBytes * ses.idx) fieldBytes (descriptorField s ses.idx).toNat s)
  case ppCmd => exact ite_edited rfl (afterProgram_edited op _ ses e (emitCmd d s))
  case ppLoad => exact ite_edited rfl (afterProgram_edited op _ ses e (emitLoad d s))
  case ppWe =>
    exact ite_edited (nextWord_edited op 0 ses e (emitWcfg s.platform.weValue d s))
      (afterProgram_edited op _ ses e (emitWcfg s.platform.weValue d s))
  case ppData => exact nextWord_edited op _ ses e (emitData (wordAddr ses) (ses.datum.setWidth 32) s)
  case ppFlush =>
    simp only [microAt, emitFlush_edited]
    exact ite_edited rfl (afterProgram_edited ..)
  case ppClear =>
    exact ite_edited (afterProgram_edited op _ ses e (emitWcfg s.platform.weClearValue d s))
      (afterProgram_edited op _ ses e (emitWcfg s.platform.weClearValue d s))
  case esCmd => exact ite_edited rfl (afterErase_edited op _ ses e (emitCmd d s))
  case esLoad => exact ite_edited rfl (afterErase_edited op _ ses e (emitLoad d s))
  case esAddr => exact ite_edited rfl (afterErase_edited op _ ses e (emitAddr ses.addr d s))
  case esLatch =>
    simp only [microAt, emitLatch_edited]
    exact ite_edited (afterErase_edited ..) (afterErase_edited ..)
  case poll =>
    exact contPoll_edited _ _ ses e
      (emitPoll (pollAnswer s.platform s.chip d).1 (pollAnswer s.platform s.chip d).2 s)

/-- The sequencer's next micro-step does the same whatever the ARG registers and ATTR hold (R48, R295). -/
theorem microStep_edited (d : Draw) (e : UnreadEdit) (s : State) :
    microStep d (edited e s) = edited e (microStep d s) := by
  cases hseq : s.seq with
  | idle => rw [microStep, microStep, hseq, show (edited e s).seq = .idle from hseq]
  | active op k ses =>
    rw [microStep_active hseq, microStep_active (s := edited e s) hseq, microAt_edited]

/-! ### The pseudocode of each command up to its first micro-step, on the operand snapshot -/

theorem startRead_edited (ses : Session) (e : UnreadEdit) (s : State) :
    startRead ses (edited e s) = edited e (startRead ses s) := raiseOr_edited (nextByte_edited ..)

theorem startWriteChunk_edited (ses : Session) (e : UnreadEdit) (s : State) :
    startWriteChunk ses (edited e s) = edited e (startWriteChunk ses s) := ite_edited rfl (raiseOr_edited rfl)

theorem startWrite_edited (ses : Session) (e : UnreadEdit) (s : State) :
    startWrite ses (edited e s) = edited e (startWrite ses s) := ite_edited rfl (raiseOr_edited (nextChunk_edited ..))

theorem startEraseSingleBlock_edited (ses : Session) (e : UnreadEdit) (s : State) :
    startEraseSingleBlock ses (edited e s) = edited e (startEraseSingleBlock ses s) := raiseOr_edited rfl

theorem startErase_edited (ses : Session) (e : UnreadEdit) (s : State) :
    startErase ses (edited e s) = edited e (startErase ses s) := ite_edited rfl (raiseOr_edited (nextUnit_edited ..))

theorem startGetDevices_edited (ses : Session) (e : UnreadEdit) (s : State) :
    startGetDevices ses (edited e s) = edited e (startGetDevices ses s) := raiseOr_edited rfl

theorem startEraseBlockRetry_edited (ses : Session) (e : UnreadEdit) (s : State) :
    startEraseBlockRetry ses (edited e s) = edited e (startEraseBlockRetry ses s) := raiseOr_edited rfl

theorem startGetBlockSize_edited (ses : Session) (e : UnreadEdit) (s : State) :
    startGetBlockSize ses (edited e s) = edited e (startGetBlockSize ses s) := ite_edited rfl rfl

theorem startFvbRead_edited (ses : Session) (e : UnreadEdit) (s : State) :
    startFvbRead ses (edited e s) = edited e (startFvbRead ses s) :=
  ite_edited rfl (ite_edited rfl (raiseOr_edited (nextByte_edited ..)))

theorem startFvbWrite_edited (ses : Session) (e : UnreadEdit) (s : State) :
    startFvbWrite ses (edited e s) = edited e (startFvbWrite ses s) :=
  ite_edited rfl (ite_edited rfl (ite_edited rfl (raiseOr_edited (nextChunk_edited ..))))

theorem startEraseBlocks_edited (ses : Session) (e : UnreadEdit) (s : State) :
    startEraseBlocks ses (edited e s) = edited e (startEraseBlocks ses s) := nextPair_edited _ e s

theorem startGetPhysicalAddress_edited (ses : Session) (e : UnreadEdit) (s : State) :
    startGetPhysicalAddress ses (edited e s) = edited e (startGetPhysicalAddress ses s) := rfl

theorem startRelocate_edited (ses : Session) (e : UnreadEdit) (s : State) :
    startRelocate ses (edited e s) = edited e (startRelocate ses s) := ite_edited rfl rfl

/-! ### Commands: an edit of ATTR alone -/

/-- ATTR alone replaced; the operand snapshot does not see it. -/
abbrev attrEdit (m : BitVec 32) : UnreadEdit := { attr := fun _ => m }

/-- No line of R351 looks at ATTR, so a command looks at it only where its pseudocode does. -/
theorem accept_edited {i : Instr} {start : Session → State → State}
    (hstart : ∀ ses e s, start ses (edited e s) = edited e (start ses s)) (m : BitVec 32) (s : State) :
    accept i start (edited (attrEdit m) s) = edited (attrEdit m) (accept i start s) :=
  ite_edited rfl (ite_edited rfl (ite_edited rfl (raiseOr_edited (e := attrEdit m) (s := { s with cmd := encode i })
    (hstart (snapshot s) (attrEdit m) (acceptedState i s)))))

theorem command_edited {i : Instr} {start : Session → State → State}
    (hstart : ∀ ses e s, start ses (edited e s) = edited e (start ses s)) (m : BitVec 32) {s t : State}
    (h : command i start s = .next t) :
    command i start (edited (attrEdit m) s) = .next (edited (attrEdit m) t) := by
  obtain ⟨hwf, rfl⟩ := command_next h
  rw [command_eq (s := edited (attrEdit m) s) hwf, accept_edited hstart]

/-- Every command but INIT, GET_ATTRIBUTES and SET_ATTRIBUTES does the same whatever ATTR holds (R295). -/
theorem exec_edited {i : Instr} (hi : i ∉ [Instr.init, .getAttributes, .setAttributes]) (m : BitVec 32) {s t : State}
    (h : exec i s = .next t) : exec i (edited (attrEdit m) s) = .next (edited (attrEdit m) t) := by
  cases i
  case init | getAttributes | setAttributes => exact absurd (by decide) hi
  case read => exact command_edited startRead_edited m h
  case writeChunk => exact command_edited startWriteChunk_edited m h
  case write => exact command_edited startWrite_edited m h
  case eraseSingleBlock => exact command_edited startEraseSingleBlock_edited m h
  case erase => exact command_edited startErase_edited m h
  case getDevices => exact command_edited startGetDevices_edited m h
  case eraseBlockRetry => exact command_edited startEraseBlockRetry_edited m h
  case getBlockSize => exact command_edited startGetBlockSize_edited m h
  case fvbRead => exact command_edited startFvbRead_edited m h
  case fvbWrite => exact command_edited startFvbWrite_edited m h
  case eraseBlocks => exact command_edited startEraseBlocks_edited m h
  case getPhysicalAddress => exact command_edited startGetPhysicalAddress_edited m h
  case relocate => exact command_edited startRelocate_edited m h

/-- Settles O57: replacing ATTR is an edit that commutes with these commands and with every micro-step. -/
theorem attributesHaveNoEffect : Obligations.AttributesHaveNoEffect :=
  ⟨fun _ _ _ m hi h => exec_edited hi m h, fun s d m => microStep_edited d (attrEdit m) s⟩

end Sys2Proof.Proofs
end

section
/-! PROOFS. The lifecycle (43_lifecycle.md R330, R332, R336): RELOCATE, and the only ways LSTATE changes. -/

namespace Sys2Proof.Proofs

open Sys2Proof Sys2Proof.Machine

/-! ### RELOCATE -/

theorem portsFit_iff {p : Platform} {base : Nat} :
    p.PortsFit base ↔ ∀ q : Port, base + (p.ports.at q).toNat < p.limit := by
  constructor
  · rintro ⟨hcommand, hload, hwriteConfig, hflush, haddress⟩ q
    cases q <;> assumption
  · exact fun h => ⟨h .command, h .load, h .writeConfig, h .flush, h .address⟩

/-- A command that faults on its own checks has begun no sequence (R353, R360). -/
theorem raise_acceptedState (i : Instr) (r : FaultReason) (s : State) :
    raise r (acceptedState i s) = faultEnd i r s := rfl

/-- A base whose ports all fit is taken over, and the block is relocated (R330). -/
theorem startRelocate_of_fit {ses : Session} {s : State} (hfit : s.platform.PortsFit ses.a0.toNat) :
    startRelocate ses s = finish .success { s with ctrlBase := ses.a0, lstate := .relocated } :=
  if_neg (not_not_intro hfit)

theorem startRelocate_of_not_fit {ses : Session} {s : State} (hfit : ¬ s.platform.PortsFit ses.a0.toNat) :
    startRelocate ses s = raise .overflow s :=
  if_pos hfit

/-- Settles O20: the check of the port addresses decides between the two ends of the pseudocode (R330). -/
theorem relocateReplacesControllerBase : Obligations.RelocateReplacesControllerBase := by
  intro s hs
  refine ⟨fun hfit => ?_, fun ⟨p, hp⟩ => ?_⟩
  · have hstart := startRelocate_of_fit (ses := snapshot s) (s := acceptedState .relocate s) (portsFit_iff.mpr hfit)
    refine (command_accepting hs startRelocate).trans ?_
    rw [hstart]
    exact congrArg (fun t : State => (.next { t with ctrlBase := s.arg0, lstate := .relocated } : Result))
      (finish_acceptedState .relocate .success s)
  · have hstart := startRelocate_of_not_fit (ses := snapshot s) (s := acceptedState .relocate s)
      fun hfit => Nat.not_lt.mpr hp (portsFit_iff.mp hfit p)
    refine (command_accepting hs startRelocate).trans ?_
    rw [hstart, raise_acceptedState]

/-! ### The pseudocode of each command up to its first micro-step -/

/-- The pseudocode that acceptance starts for each command. -/
def startOf : Instr → Session → State → State
  | .init => startInit
  | .read => startRead
  | .writeChunk => startWriteChunk
  | .write => startWrite
  | .eraseSingleBlock => startEraseSingleBlock
  | .erase => startErase
  | .getDevices => startGetDevices
  | .eraseBlockRetry => startEraseBlockRetry
  | .getBlockSize => startGetBlockSize
  | .fvbRead => startFvbRead
  | .fvbWrite => startFvbWrite
  | .eraseBlocks => startEraseBlocks
  | .getAttributes => startGetAttributes
  | .setAttributes => startSetAttributes
  | .getPhysicalAddress => startGetPhysicalAddress
  | .relocate => startRelocate

/-- Every command is acceptance followed by its pseudocode (R351). -/
theorem exec_eq_command (i : Instr) (s : State) : exec i s = command i (startOf i) s := by cases i <;> rfl

theorem kept_ite {c : Prop} [Decidable c] {s t u : State} (ht : Kept s t) (hu : Kept s u) :
    Kept s (if c then t else u) := by
  split
  · exact ht
  · exact hu

/-- INIT and RELOCATE load registers, SET_ATTRIBUTES replaces ATTR; no other pseudocode does either. -/
theorem kept_startOf {i : Instr} (hi : i ∉ [Instr.init, .setAttributes, .relocate]) (ses : Session) (s : State) :
    Kept s (startOf i ses s) := by
  cases i
  case init | setAttributes | relocate => exact absurd (by decide) hi
  case read => exact kept_raiseOr (kept_nextByte ..)
  case writeChunk => exact kept_ite (kept_finish ..) (kept_raiseOr (kept_goto ..))
  case write => exact kept_ite (kept_finish ..) (kept_raiseOr (kept_nextChunk ..))
  case eraseSingleBlock => exact kept_raiseOr (kept_goto ..)
  case erase => exact kept_ite (kept_finish ..) (kept_raiseOr (kept_nextUnit ..))
  case getDevices => exact kept_raiseOr (kept_goto ..)
  case eraseBlockRetry => exact kept_raiseOr (kept_beginAttempt ..)
  case getBlockSize => exact kept_ite (kept_finish ..) (by constructor <;> rfl)
  case fvbRead => exact kept_ite (kept_finish ..) (kept_ite (kept_finish ..) (kept_raiseOr (kept_nextByte ..)))
  case fvbWrite =>
    exact kept_ite (kept_finish ..) (kept_ite (kept_finish ..) (kept_ite (kept_finish ..)
      (kept_raiseOr (kept_nextChunk ..))))
  case eraseBlocks => exact kept_nextPair ..
  case getAttributes => exact kept_finishResult ..
  case getPhysicalAddress => exact kept_finishResult ..

/-- INIT fails with nothing loaded, or succeeds with the configuration (R202, R203). -/
theorem startInit_cases (ses : Session) (s : State) :
    (∃ c, startInit ses s = finish c s) ∨ startInit ses s = finish .success (loadConfiguration s) := by
  unfold startInit
  split
  · exact .inl ⟨_, rfl⟩
  · split
    · exact .inl ⟨_, rfl⟩
    · split
      · exact .inl ⟨_, rfl⟩
      · exact .inr rfl

/-! ### Commands that change LSTATE -/

/-- The state after a successful command that moved LSTATE: SUCCESS in RESULT_CODE, BUSY = 0 (R336, R354). -/
structure MovedTo (l : LState) (t : State) : Prop where
  lstate : t.lstate = l
  resultCode : t.resultCode = .success
  busy : t.busy = false

/-- Only the ends of INIT and RELOCATE with SUCCESS write LSTATE (R203, R330). -/
theorem startOf_lstate_ne {i : Instr} {ses : Session} {s : State} (hne : (startOf i ses s).lstate ≠ s.lstate) :
    (i = .init ∧ MovedTo .ready (startOf i ses s)) ∨ (i = .relocate ∧ MovedTo .relocated (startOf i ses s)) := by
  by_cases hi : i ∈ [Instr.init, .setAttributes, .relocate]
  · simp only [List.mem_cons, List.not_mem_nil, or_false] at hi
    rcases hi with rfl | rfl | rfl
    · rcases startInit_cases ses s with ⟨c, hfail⟩ | hload
      · exact absurd (congrArg State.lstate hfail) hne
      · refine .inl ⟨rfl, ?_⟩
        rw [startOf, hload]
        exact ⟨rfl, rfl, rfl⟩
    · exact absurd rfl hne
    · by_cases hfit : s.platform.PortsFit ses.a0.toNat
      · refine .inr ⟨rfl, ?_⟩
        rw [startOf, startRelocate_of_fit hfit]
        exact ⟨rfl, rfl, rfl⟩
      · exact absurd (congrArg State.lstate (startRelocate_of_not_fit hfit)) hne
  · exact absurd (kept_startOf hi ses s).lstate hne

/-- Nothing before the pseudocode writes LSTATE: if it changes, the command was accepted (R351). -/
theorem accept_lstate_ne {i : Instr} {start : Session → State → State} {s : State}
    (hne : (accept i start s).lstate ≠ s.lstate) :
    lifecycleFault i s.lstate = none ∧ accept i start s = start (snapshot s) (acceptedState i s) := by
  rcases accept_cases i start s with
    ⟨_, h⟩ | ⟨_, _, h⟩ | ⟨_, _, _, h⟩ | ⟨_, _, _, r, _, h⟩ | ⟨_, _, _, hlife, h⟩
  case inr.inr.inr.inr => exact ⟨hlife, h⟩
  all_goals exact absurd (congrArg State.lstate h) hne

/-- A command that changes LSTATE is INIT in UNINIT or RELOCATE in READY, and has finished with SUCCESS (R336, R369). -/
theorem exec_lstate_ne {i : Instr} {s t : State} (h : exec i s = .next t) (hne : t.lstate ≠ s.lstate) :
    (i = .init ∧ s.lstate = .uninit ∧ MovedTo .ready t) ∨
    (i = .relocate ∧ s.lstate = .ready ∧ MovedTo .relocated t) := by
  rw [exec_eq_command] at h
  obtain ⟨_, rfl⟩ := command_next h
  obtain ⟨hlife, heq⟩ := accept_lstate_ne hne
  obtain ⟨hinit, hrelocate⟩ := lifecycleFault_none.mp hlife
  rw [heq] at hne ⊢
  rcases startOf_lstate_ne hne with ⟨hi, hmoved⟩ | ⟨hi, hmoved⟩
  · exact .inl ⟨hi, hinit.mp hi, hmoved⟩
  · exact .inr ⟨hi, hrelocate hi, hmoved⟩

/-! ### Moves that change LSTATE -/

theorem regOffset_of_accessedReg {offset width : Nat} {r : Reg} (h : accessedReg offset width = some r) :
    width = 8 ∧ offset = regOffset r := by
  unfold accessedReg at h
  split at h
  · next hwidth =>
    refine ⟨hwidth, ?_⟩
    unfold regAt at h
    split at h <;> cases h <;> rfl
  · cases h

theorem registerOffset_some {s : State} {addr offset : Nat} (h : registerOffset s addr = some offset) :
    addr = s.platform.blockBase + offset := by
  unfold registerOffset at h
  split at h
  · next hrange =>
    cases h
    omega
  · cases h

/-- A host write reaches a register at its offset, or is a wrong access (R131, R132). -/
theorem hostWrite_cases {addr width : Nat} {v : Word} {s t : State} (h : hostWrite addr width v s = .next t) :
    (∃ r, addr = s.platform.blockBase + regOffset r ∧ width = 8 ∧ writeReg r v s = .next t) ∨ t = wrongAccess s := by
  unfold hostWrite at h
  split at h
  · cases h
  · next offset hoffset =>
    split at h
    · next r hr =>
      obtain ⟨hwidth, rfl⟩ := regOffset_of_accessedReg hr
      exact .inl ⟨r, registerOffset_some hoffset, hwidth, h⟩
    · exact .inr (Host.Outcome.next.inj h).symm

theorem wrongAccess_lstate (s : State) : (wrongAccess s).lstate = s.lstate := by
  unfold wrongAccess
  split <;> rfl

theorem rejectOpcode_lstate (v : Word) (s : State) : (rejectOpcode v s).lstate = s.lstate := by
  unfold rejectOpcode
  split
  · rfl
  · split <;> rfl

theorem writeArg_lstate {store : Word → State → State} (hstore : ∀ w t, (store w t).lstate = t.lstate) (v : Word)
    (s : State) : (writeArg store v s).lstate = s.lstate := by
  unfold writeArg
  split
  · rfl
  · split
    · rfl
    · exact hstore _ s

/-- A register write that changes LSTATE is one of a command word to CMD (R140). -/
theorem writeReg_lstate_ne {r : Reg} {v : Word} {s t : State} (h : writeReg r v s = .next t)
    (hne : t.lstate ≠ s.lstate) : r = .cmd ∧ ∃ i, decode v = .ok i ∧ exec i s = .next t := by
  cases r
  case cmd =>
    simp only [writeReg, writeCmd] at h
    split at h
    · next i hdecode => exact ⟨rfl, i, hdecode, h⟩
    · cases h
      exact absurd (rejectOpcode_lstate v s) hne
  case arg0 | arg1 | arg2 | arg3 =>
    cases h
    refine absurd (writeArg_lstate ?_ v s) hne
    exact fun _ _ => rfl
  all_goals
    cases h
    exact absurd rfl hne

theorem hostRead_lstate {addr width : Nat} {s t : State} (h : hostRead addr width s = .next t) :
    t.lstate = s.lstate := by
  unfold hostRead at h
  split at h
  · cases h
  · split at h
    · cases h
      rfl
    · cases h
      exact wrongAccess_lstate s

theorem hostWindowRead_lstate {a : Nat} {d : Draw} {s t : State} (h : hostWindowRead a d s = .next t) :
    t.lstate = s.lstate := by
  unfold hostWindowRead at h
  split at h
  · cases h
  · split at h
    · cases h
      rfl
    · split at h
      · cases h
        rfl
      · cases h

theorem hostStore_lstate {a : Nat} {b : Byte} {s t : State} (h : hostStore a b s = .next t) :
    t.lstate = s.lstate := by
  unfold hostStore at h
  split at h
  · cases h
    rfl
  · cases h

theorem platformChange_lstate (present capabilityPresent resourcesOk : Bool) (s : State) :
    (platformChange present capabilityPresent resourcesOk s).lstate = s.lstate := by
  unfold platformChange
  split <;> rfl

/-- Neither a completion in the chip nor a micro-step writes LSTATE (R336). -/
theorem autonomous_lstate (s : State) : (autonomous s).lstate = s.lstate := by
  rcases autonomous_cases s with h | ⟨k, b, _, h⟩ | ⟨d, h⟩
  · rw [h]
  · rw [h, chipComplete_lstate]
  · rw [h, (kept_microStep d _).lstate]

theorem awaitIdle_lstate (ds : List Draw) (s : State) : (awaitIdle ds s).lstate = s.lstate := by
  rcases awaitIdle_cases ds s with ⟨_, h⟩ | ⟨_, t, es, h, ht⟩
  · rw [h]
  · rw [h]
    rcases ht with rfl | ⟨d, rfl⟩
    · exact autonomous_lstate s
    · exact (kept_microStep d s).lstate

/-- A move other than a reset that changes LSTATE is a host write of a command word to CMD (R336). -/
theorem move_lstate_ne {e : Input} {s t : State} (he : e.isReset = false) (h : move e s = .next t)
    (hne : t.lstate ≠ s.lstate) :
    ∃ v i, e = .hostWrite (s.platform.blockBase + 0x000) 8 v ∧ decode v = .ok i ∧ exec i s = .next t := by
  cases e with
  | hostWrite addr width v =>
    rcases hostWrite_cases h with ⟨r, rfl, rfl, hwrite⟩ | rfl
    · obtain ⟨rfl, i, hdecode, hexec⟩ := writeReg_lstate_ne hwrite hne
      exact ⟨v, i, rfl, hdecode, hexec⟩
    · exact absurd (wrongAccess_lstate s) hne
  | hostRead addr width => exact absurd (hostRead_lstate h) hne
  | awaitIdle ds =>
    cases h
    exact absurd (awaitIdle_lstate ds s) hne
  | hostWindowRead a d => exact absurd (hostWindowRead_lstate h) hne
  | hostStore a b => exact absurd (hostStore_lstate h) hne
  | sequencer d =>
    cases h
    exact absurd (kept_microStep d s).lstate hne
  | complete k success =>
    cases h
    exact absurd (chipComplete_lstate k success s) hne
  | blockReset => cases he
  | powerCycle mem => cases he
  | platformChange p c r =>
    cases h
    exact absurd (platformChange_lstate p c r s) hne

/-- A block reset and a power cycle lead to UNINIT (R390, R394). -/
theorem move_reset_lstate {e : Input} {s t : State} (he : e.isReset = true) (h : move e s = .next t) :
    t.lstate = .uninit := by
  cases e
  case blockReset | powerCycle =>
    cases h
    rfl
  all_goals cases he

/-! ### Steps -/

theorem resetNext_of_nil {s : State} (h : s.inputs = []) : resetNext s = false := by
  simp [resetNext, h]

theorem resetNext_of_cons {s : State} {e : Input} {rest : List Input} (h : s.inputs = e :: rest) :
    resetNext s = e.isReset := by
  simp [resetNext, h]

/-- Settles O54: a step is a move of the block itself, which keeps LSTATE, or of the script's first input; of those only
a reset or a CMD write changes LSTATE, and `exec_lstate_ne` says which commands do. -/
theorem lifecycleTransitions : Obligations.LifecycleTransitions := by
  intro s t hstep
  obtain ⟨_, ⟨hnil, rfl⟩ | ⟨e, rest, hcons, hmove⟩⟩ := step_cases hstep
  · rw [resetNext_of_nil hnil]
    exact ⟨nofun, fun _ hne => absurd (autonomous_lstate s) hne⟩
  · rw [resetNext_of_cons hcons]
    refine ⟨fun he => move_reset_lstate he hmove, fun he hne => ?_⟩
    obtain ⟨v, i, rfl, hdecode, hexec⟩ := move_lstate_ne he hmove hne
    rcases exec_lstate_ne hexec hne with ⟨rfl, hfrom, hto⟩ | ⟨rfl, hfrom, hto⟩
    · exact .inl ⟨hfrom, hto.lstate, ⟨v, rest, hcons, hdecode⟩, hto.resultCode, hto.busy⟩
    · exact .inr ⟨hfrom, hto.lstate, ⟨v, rest, hcons, hdecode⟩, hto.resultCode, hto.busy⟩

end Sys2Proof.Proofs
end

section
/-! PROOFS. A halted block (60_exceptions.md R358, 10_state.md R36): it answers every command UNRECOVERABLE, and only a
reset clears HALTED. -/

namespace Sys2Proof.Proofs

open Sys2Proof Sys2Proof.Machine

/-! ### Branches -/

theorem ite_halted {c : Prop} [Decidable c] {t u : State} (ht : t.halted = true) (hu : u.halted = true) :
    (if c then t else u).halted = true := by
  split
  · exact ht
  · exact hu

/-- A raised fault leaves HALTED as it is (R360). -/
theorem raiseOr_halted {f : Option FaultReason} {go : State → State} {s : State} (h : s.halted = true)
    (hgo : (go s).halted = true) : (raiseOr f go s).halted = true := by
  cases f
  · exact hgo
  · exact h

/-! ### What a command does between two micro-steps

Every one of its ends leaves HALTED as it is, but `fatal`, which sets it (R354, R357, R360). -/

section
variable {s : State} (h : s.halted = true)
include h

theorem nextByte_halted {op : Instr} {ses : Session} : (nextByte op ses s).halted = true := ite_halted h h

theorem nextChunk_halted {op : Instr} {ses : Session} : (nextChunk op ses s).halted = true := ite_halted h h

theorem nextUnit_halted {ses : Session} : (nextUnit ses s).halted = true := ite_halted h h

theorem nextPair_halted {ses : Session} : (nextPair ses s).halted = true := raiseOr_halted h h

theorem nextPairUnit_halted {ses : Session} : (nextPairUnit ses s).halted = true :=
  ite_halted (nextPair_halted h) h

theorem nextWord_halted {op : Instr} {i : Nat} {ses : Session} : (nextWord op i ses s).halted = true :=
  ite_halted h h

theorem failAttempt_halted {ses : Session} : (failAttempt ses s).halted = true := ite_halted h h

theorem afterCopy_halted {op : Instr} {ses : Session} : (afterCopy op ses s).halted = true := by
  cases op
  case read | fvbRead => exact nextByte_halted h
  all_goals exact h

theorem afterProgram_halted {op : Instr} {st : Status} {ses : Session} : (afterProgram op st ses s).halted = true := by
  cases op
  case write | fvbWrite => exact ite_halted rfl (nextChunk_halted h)
  all_goals exact h

theorem afterErase_halted {op : Instr} {st : Status} {ses : Session} : (afterErase op st ses s).halted = true := by
  cases op
  case erase => exact ite_halted rfl (nextUnit_halted h)
  case eraseBlocks => exact ite_halted rfl (nextPairUnit_halted h)
  case eraseBlockRetry => exact ite_halted h (failAttempt_halted h)
  all_goals exact h

theorem contPoll_halted {busy ok : Bool} {ses : Session} : (contPoll busy ok ses s).halted = true :=
  ite_halted (ite_halted (failAttempt_halted h) h) (ite_halted h (failAttempt_halted h))

theorem contListLba_halted {l : Nat} {ses : Session} : (contListLba l ses s).halted = true :=
  ite_halted h (raiseOr_halted h h)

theorem contListNum_halted {n : Nat} {ses : Session} : (contListNum n ses s).halted = true :=
  ite_halted (nextPairUnit_halted h) (nextPair_halted h)

theorem contGetDevices_halted {ses : Session} : (contGetDevices ses s).halted = true := ite_halted h h

theorem emitFlush_halted {d : Draw} : (emitFlush d s).halted = true := ite_halted h h

theorem emitLatch_halted {b : Nat} {d : Draw} : (emitLatch b d s).halted = true := ite_halted h h

/-! ### Micro-steps and the block's own moves -/

/-- No bus or memory call writes HALTED, and what follows it does not clear it (R36). -/
theorem microAt_halted {op : Instr} {k : Pos} {ses : Session} {d : Draw} : (microAt op k ses d s).halted = true := by
  cases k
  case winRead | ppFetch => exact h
  case memWrite => exact afterCopy_halted (s := memWrite _ _ _ s) h
  case listLba => exact contListLba_halted h
  case listNum => exact contListNum_halted h
  case record => exact contGetDevices_halted (s := memWrite _ _ _ s) h
  case poll => exact contPoll_halted (s := emitPoll _ _ s) h
  case ppData => exact nextWord_halted (s := emitData _ _ s) h
  case ppCmd => exact ite_halted h (afterProgram_halted (s := emitCmd d s) h)
  case ppLoad => exact ite_halted h (afterProgram_halted (s := emitLoad d s) h)
  case ppWe =>
    exact ite_halted (nextWord_halted (s := emitWcfg _ d s) h) (afterProgram_halted (s := emitWcfg _ d s) h)
  case ppFlush => exact ite_halted (emitFlush_halted h) (afterProgram_halted (emitFlush_halted h))
  case ppClear =>
    exact ite_halted (afterProgram_halted (s := emitWcfg _ d s) h) (afterProgram_halted (s := emitWcfg _ d s) h)
  case esCmd => exact ite_halted h (afterErase_halted (s := emitCmd d s) h)
  case esLoad => exact ite_halted h (afterErase_halted (s := emitLoad d s) h)
  case esAddr => exact ite_halted h (afterErase_halted (s := emitAddr _ d s) h)
  case esLatch =>
    exact ite_halted (afterErase_halted (emitLatch_halted h)) (afterErase_halted (emitLatch_halted h))

theorem microStep_halted {d : Draw} : (microStep d s).halted = true := by
  unfold microStep
  split
  · exact h
  · exact microAt_halted h

theorem autonomous_halted : (autonomous s).halted = true := by
  rcases autonomous_cases s with heq | ⟨k, b, -, heq⟩ | ⟨d, heq⟩ <;> rw [heq]
  · exact h
  · exact h
  · exact microStep_halted (s := { s with draws := s.draws + 1 }) h

theorem awaitIdle_halted {ds : List Draw} : (awaitIdle ds s).halted = true := by
  rcases awaitIdle_cases ds s with ⟨-, heq⟩ | ⟨-, t, es, heq, rfl | ⟨d, rfl⟩⟩ <;> rw [heq]
  · exact h
  · exact autonomous_halted h
  · exact microStep_halted h

/-! ### Host accesses -/

/-- In none of the cases of R351 does a command written to a halted block reach its pseudocode. -/
theorem accept_halted {i : Instr} {start : Session → State → State} : (accept i start s).halted = true := by
  rcases accept_cases i start s with
    ⟨_, heq⟩ | ⟨_, _, heq⟩ | ⟨_, _, _, heq⟩ | ⟨_, _, hrun, _⟩ | ⟨_, _, hrun, _⟩
  case inr.inr.inr.inl | inr.inr.inr.inr => exact absurd h (hrun ▸ Bool.false_ne_true)
  all_goals
    rw [heq]
    exact h

theorem exec_halted {i : Instr} {t : State} (hexec : exec i s = .next t) : t.halted = true := by
  rw [exec_eq_command] at hexec
  obtain ⟨-, rfl⟩ := command_next hexec
  exact accept_halted h

theorem wrongAccess_halted : (wrongAccess s).halted = true := ite_halted h h

theorem rejectOpcode_halted (v : Word) : (rejectOpcode v s).halted = true := ite_halted h (ite_halted h h)

theorem writeArg_halted {store : Word → State → State} (hstore : ∀ w, (store w s).halted = true) (v : Word) :
    (writeArg store v s).halted = true :=
  ite_halted h (ite_halted h (hstore _))

/-- A register write clears HALTED in none of its cases: a command, a word that is none, an operand, an ignored write
(R133, R134, R140). -/
theorem writeReg_halted {r : Reg} {v : Word} {t : State} (hwrite : writeReg r v s = .next t) : t.halted = true := by
  cases r
  case cmd =>
    simp only [writeReg, writeCmd] at hwrite
    split at hwrite
    · exact exec_halted h hwrite
    · cases hwrite
      exact rejectOpcode_halted h v
  case arg0 | arg1 | arg2 | arg3 =>
    cases hwrite
    exact writeArg_halted h (fun _ => h) v
  all_goals
    cases hwrite
    exact h

theorem hostWrite_halted {addr width : Nat} {v : Word} {t : State} (hwrite : hostWrite addr width v s = .next t) :
    t.halted = true := by
  rcases hostWrite_cases hwrite with ⟨r, -, -, hreg⟩ | rfl
  · exact writeReg_halted h hreg
  · exact wrongAccess_halted h

theorem hostRead_halted {addr width : Nat} {t : State} (hread : hostRead addr width s = .next t) :
    t.halted = true := by
  unfold hostRead at hread
  split at hread
  · cases hread
  · split at hread <;> cases hread
    · exact h
    · exact wrongAccess_halted h

theorem hostWindowRead_halted {a : Nat} {d : Draw} {t : State} (hread : hostWindowRead a d s = .next t) :
    t.halted = true := by
  unfold hostWindowRead at hread
  split at hread
  · cases hread
  · split at hread
    · cases hread
      exact h
    · split at hread <;> cases hread
      exact h

theorem hostStore_halted {a : Nat} {b : Byte} {t : State} (hstore : hostStore a b s = .next t) : t.halted = true := by
  unfold hostStore at hstore
  split at hstore <;> cases hstore
  exact h

/-! ### Moves and steps -/

/-- No move of the environment but a reset clears HALTED (R36). -/
theorem move_halted {e : Input} {t : State} (he : e.isReset = false) (hmove : move e s = .next t) :
    t.halted = true := by
  cases e with
  | hostWrite addr width v => exact hostWrite_halted h hmove
  | hostRead addr width => exact hostRead_halted h hmove
  | awaitIdle ds =>
    cases hmove
    exact awaitIdle_halted h
  | hostWindowRead a d => exact hostWindowRead_halted h hmove
  | hostStore a b => exact hostStore_halted h hmove
  | sequencer d =>
    cases hmove
    exact microStep_halted h
  | complete k success =>
    cases hmove
    exact h
  | blockReset => cases he
  | powerCycle mem => cases he
  | platformChange p c r =>
    cases hmove
    exact ite_halted h h

/-- A block once halted stays halted until a reset, whatever else its state is (R36, R358). -/
theorem step_halted {t : State} (hstep : step s = .next t) (hreset : resetNext s = false) : t.halted = true := by
  obtain ⟨-, ⟨-, rfl⟩ | ⟨e, rest, hcons, hmove⟩⟩ := step_cases hstep
  · exact autonomous_halted h
  · rw [resetNext_of_cons hcons] at hreset
    exact move_halted (s := { s with inputs := rest }) h hreset hmove

end

/-! ### The answer of a halted block -/

/-- The register bank of a well-formed platform lies inside the address space (R57, R131). -/
theorem bankOk_of_wf {p : Platform} (h : p.WF) : p.BankOk := by
  obtain ⟨⟨_, _, _, _, _, _, hbank, _⟩, _⟩ := h
  exact hbank

/-- The case of R351 for a halted block: no pseudocode runs, whichever the command (R358). -/
theorem accept_of_halted (i : Instr) (start : Session → State → State) {s : State} (hfault : s.fault = false)
    (hbusy : s.busy = false) (hhalted : s.halted = true) :
    accept i start s = { s with cmd := encode i, opcount := 0, resultCode := .unrecoverable } := by
  rw [accept, if_neg (by simp [hfault]), if_neg (by simp [hbusy]), if_pos hhalted]

/-- Settles O13: acceptance stops at HALTED, the two accesses reach their registers as those of any idle block do, and
`step_halted` is the last part. -/
theorem haltedBlockAnswersUnrecoverable : Obligations.HaltedBlockAnswersUnrecoverable := by
  intro s hwf hfault hbusy hhalted
  have hbank := bankOk_of_wf hwf
  refine ⟨fun i => ?_, fun v => ?_, move_hostRead_reg hbank .status, fun t => step_halted hhalted⟩
  · rw [exec_eq_command, command_eq hwf, accept_of_halted i _ hfault hbusy hhalted]
  · exact (move_hostWrite_arg (r := .arg3) hbank rfl).trans (by simp [hfault, hbusy])

end Sys2Proof.Proofs
end

section
/-! PROOFS. The gate that LSTATE sets for each command (60_exceptions.md R369). -/

namespace Sys2Proof.Proofs

open Sys2Proof Sys2Proof.Machine

/-! ### The faults of the gate -/

/-- The gate's three faults, one for each cell of the table of R369 that accepts nothing. -/
theorem lifecycleFault_eq_some {i : Instr} {l : LState} {r : FaultReason} :
    lifecycleFault i l = some r ↔
      (r = .notReady ∧ i ≠ .init ∧ l = .uninit) ∨ (r = .reinit ∧ i = .init ∧ l ≠ .uninit) ∨
        (r = .relocate ∧ i = .relocate ∧ l = .relocated) := by
  by_cases hinit : i = .init
  · subst hinit
    cases l <;> simp [lifecycleFault, eq_comm]
  · by_cases hrelocate : i = .relocate
    · subst hrelocate
      cases l <;> simp [lifecycleFault, eq_comm]
    · cases l <;> simp [lifecycleFault, hinit, hrelocate, eq_comm]

/-! ### The faults of the pseudocodes -/

/-- The reasons of the checks that a command makes on its operands (R353). -/
abbrev operandReasons : List FaultReason := [.overflow, .window, .hostMem]

/-- A check of R353 that finds a fault gives it one of the reasons of R353. -/
def ChecksOperands (f : Option FaultReason) : Prop := ∀ r, f = some r → r ∈ operandReasons

theorem checksOperands_none : ChecksOperands none := nofun

theorem checksOperands_some {r : FaultReason} (hr : r ∈ operandReasons) : ChecksOperands (some r) := by
  rintro _ ⟨⟩
  exact hr

theorem checksOperands_ite {c : Prop} [Decidable c] {f g : Option FaultReason} (hf : ChecksOperands f)
    (hg : ChecksOperands g) : ChecksOperands (if c then f else g) := by
  split
  · exact hf
  · exact hg

theorem checksOperands_overflow : ChecksOperands (some .overflow) := checksOperands_some (by decide)

theorem checksOperands_window : ChecksOperands (some .window) := checksOperands_some (by decide)

theorem checksOperands_hostMem : ChecksOperands (some .hostMem) := checksOperands_some (by decide)

theorem checksOperands_bufferFault {s : State} {buf len : Nat} : ChecksOperands (bufferFault s buf len) :=
  checksOperands_ite checksOperands_none (checksOperands_ite checksOperands_overflow
    (checksOperands_ite checksOperands_hostMem checksOperands_none))

theorem checksOperands_transferFault {s : State} {addr buf len : Nat} :
    ChecksOperands (transferFault s addr buf len) :=
  checksOperands_ite checksOperands_none (checksOperands_ite checksOperands_overflow
    (checksOperands_ite checksOperands_window (checksOperands_ite checksOperands_hostMem checksOperands_none)))

theorem checksOperands_eraseFault {s : State} {off len n unit : Nat} :
    ChecksOperands (eraseFault s off len n unit) :=
  checksOperands_ite checksOperands_none (checksOperands_ite checksOperands_overflow
    (checksOperands_ite checksOperands_window checksOperands_none))

theorem checksOperands_eraseAddressFault {s : State} {b : Nat} : ChecksOperands (eraseAddressFault s b) :=
  checksOperands_ite checksOperands_window checksOperands_none

theorem checksOperands_listWordFault {s : State} {a : Nat} : ChecksOperands (listWordFault s a) :=
  checksOperands_ite checksOperands_overflow (checksOperands_ite checksOperands_hostMem checksOperands_none)

/-- The state has no fault, or the fault of a check on the operands (R353). -/
def OperandFaultOnly (t : State) : Prop := t.fault = true → t.faultReason ∈ operandReasons

theorem operandFaultOnly_of_fault_eq {s t : State} (hs : s.fault = false) (ht : t.fault = s.fault) :
    OperandFaultOnly t :=
  fun hfault => absurd (hfault.symm.trans (ht.trans hs)) nofun

theorem operandFaultOnly_ite {c : Prop} [Decidable c] {t u : State} (ht : OperandFaultOnly t)
    (hu : OperandFaultOnly u) : OperandFaultOnly (if c then t else u) := by
  split
  · exact ht
  · exact hu

theorem operandFaultOnly_raiseOr {f : Option FaultReason} {go : State → State} {s : State} (hf : ChecksOperands f)
    (hgo : OperandFaultOnly (go s)) : OperandFaultOnly (raiseOr f go s) := by
  cases f with
  | none => exact hgo
  | some r => exact fun _ => hf r rfl

/-- The pseudocode of a command, started without a fault, raises none but those of its checks (R353). -/
theorem operandFaultOnly_startOf (i : Instr) (ses : Session) {s : State} (hfault : s.fault = false) :
    OperandFaultOnly (startOf i ses s) := by
  have clean {t : State} (ht : t.fault = s.fault) : OperandFaultOnly t :=
    operandFaultOnly_of_fault_eq hfault ht
  have either {c : Prop} [Decidable c] {t u : State} (ht : t.fault = s.fault) (hu : u.fault = s.fault) :
      OperandFaultOnly (if c then t else u) := operandFaultOnly_ite (clean ht) (clean hu)
  cases i
  case init =>
    rcases startInit_cases ses s with ⟨c, h⟩ | h <;> rw [startOf, h] <;> exact clean rfl
  case read => exact operandFaultOnly_raiseOr checksOperands_transferFault (either rfl rfl)
  case writeChunk =>
    exact operandFaultOnly_ite (clean rfl) (operandFaultOnly_raiseOr checksOperands_transferFault (clean rfl))
  case write =>
    exact operandFaultOnly_ite (clean rfl) (operandFaultOnly_raiseOr checksOperands_transferFault (either rfl rfl))
  case eraseSingleBlock => exact operandFaultOnly_raiseOr checksOperands_eraseAddressFault (clean rfl)
  case erase =>
    exact operandFaultOnly_ite (clean rfl) (operandFaultOnly_raiseOr checksOperands_eraseFault (either rfl rfl))
  case getDevices => exact operandFaultOnly_raiseOr checksOperands_bufferFault (clean rfl)
  case eraseBlockRetry => exact operandFaultOnly_raiseOr checksOperands_eraseAddressFault (clean rfl)
  case getBlockSize => exact either rfl rfl
  case fvbRead =>
    exact operandFaultOnly_ite (clean rfl) (operandFaultOnly_ite (clean rfl)
      (operandFaultOnly_raiseOr checksOperands_bufferFault (either rfl rfl)))
  case fvbWrite =>
    exact operandFaultOnly_ite (clean rfl) (operandFaultOnly_ite (clean rfl) (operandFaultOnly_ite (clean rfl)
      (operandFaultOnly_raiseOr checksOperands_bufferFault (either rfl rfl))))
  case eraseBlocks => exact operandFaultOnly_raiseOr checksOperands_listWordFault (clean rfl)
  case getAttributes | setAttributes | getPhysicalAddress => exact clean rfl
  case relocate => exact operandFaultOnly_ite (fun _ => List.mem_cons_self) (clean rfl)

/-! ### The gate of every command -/

/-- The reasons of the gate's faults (R369). -/
abbrev gateReasons : List FaultReason := [.notReady, .reinit, .relocate]

/-- The gate and the checks on the operands give different reasons (R146). -/
theorem not_mem_operandReasons_of_gate : ∀ r ∈ gateReasons, r ∉ operandReasons := by decide

/-- A command that ends up with one of the gate's faults was stopped by the gate: no pseudocode raises one (R351). -/
theorem accept_gate_fault {i : Instr} {s : State} (hfault : s.fault = false) (hbusy : s.busy = false)
    (hhalted : s.halted = false) {r : FaultReason} (hr : r ∈ gateReasons) :
    (accept i (startOf i) s).fault = true ∧ (accept i (startOf i) s).faultReason = r ↔
      lifecycleFault i s.lstate = some r := by
  rcases accept_cases i (startOf i) s with
    ⟨h, _⟩ | ⟨_, h, _⟩ | ⟨_, _, h, _⟩ | ⟨_, _, _, r', hlife, heq⟩ | ⟨_, _, _, hlife, heq⟩
  · exact absurd (h.symm.trans hfault) nofun
  · exact absurd (h.symm.trans hbusy) nofun
  · exact absurd (h.symm.trans hhalted) nofun
  · simp [heq, hlife]
  · have hnone : ¬ ((accept i (startOf i) s).fault = true ∧ (accept i (startOf i) s).faultReason = r) := by
      rintro ⟨hraised, rfl⟩
      rw [heq] at hraised hr
      exact not_mem_operandReasons_of_gate _ hr
        (operandFaultOnly_startOf i _ (s := acceptedState i s) hfault hraised)
    simp [hlife, hnone]

/-- The gate's fault stops a command with CMD and the fault record written and nothing else (R351, R360). -/
theorem accept_of_lifecycleFault {i : Instr} {start : Session → State → State} {s : State} {r : FaultReason}
    (hfault : s.fault = false) (hbusy : s.busy = false) (hhalted : s.halted = false)
    (hlife : lifecycleFault i s.lstate = some r) : accept i start s = raise r { s with cmd := encode i } := by
  rw [accept, if_neg (by simp [hfault]), if_neg (by simp [hbusy]), if_neg (by simp [hhalted]), hlife, raiseOr_some]

/-- Settles O14: `accept_gate_fault` ties each fault to the gate, whose cells are `lifecycleFault_eq_some`. -/
theorem lifecycleGatesCommands : Obligations.LifecycleGatesCommands := by
  intro i s hwf hfault hbusy hhalted
  have hgate {r : FaultReason} (hr : r ∈ gateReasons) := accept_gate_fault (i := i) hfault hbusy hhalted hr
  refine ⟨accept i (startOf i) s, (exec_eq_command i s).trans (command_eq hwf),
    (hgate (by decide)).trans (lifecycleFault_eq_some.trans (by simp)),
    (hgate (by decide)).trans (lifecycleFault_eq_some.trans (by simp)),
    (hgate (by decide)).trans (lifecycleFault_eq_some.trans (by simp)), fun hreason hraised => ?_⟩
  have hlife := (hgate hreason).mp ⟨hraised, rfl⟩
  exact accept_of_lifecycleFault hfault hbusy hhalted hlife

end Sys2Proof.Proofs
end

section
/-! PROOFS. Block reset (70_reset_and_hazards.md R390, R392, R393): the registers, and the chip in the middle of a sequence
(20_memory.md R100). -/

namespace Sys2Proof.Proofs

open Sys2Proof Sys2Proof.Machine

/-! ### Inside a sequence -/

/-- The positions after the first event of PP_SEQ or ESB_SEQ up to the last one (R210, R222, R100). -/
abbrev insidePositions : List Pos :=
  [Pos.ppLoad, .ppWe, .ppFetch, .ppData, .ppFlush, .ppClear, .esLoad, .esAddr, .esLatch]

theorem midSequence_active (op : Instr) (k : Pos) (ses : Session) :
    midSequence (.active op k ses) = true ↔ k ∈ insidePositions := by
  cases k <;> simp [midSequence, insidePositions]

theorem midSequence_eq_true_iff (q : Seq) :
    midSequence q = true ↔ ∃ op k ses, q = .active op k ses ∧ k ∈ insidePositions := by
  cases q with
  | idle =>
    constructor
    · exact nofun
    · rintro ⟨_, _, _, hactive, _⟩
      cases hactive
  | active op k ses =>
    constructor
    · exact fun hmid => ⟨op, k, ses, rfl, (midSequence_active op k ses).mp hmid⟩
    · rintro ⟨_, _, _, ⟨⟩, hk⟩
      exact (midSequence_active op k ses).mpr hk

/-! ### abandon -/

theorem abandon_undef_iff (s : State) :
    (abandon s).chip.undef = true ↔ s.chip.undef = true ∨ midSequence s.seq = true := by
  simp

/-! ### resetRegisters -/

@[simp] theorem resetRegisters_platform (s : State) : (resetRegisters s).platform = s.platform := rfl
@[simp] theorem resetRegisters_seq (s : State) : (resetRegisters s).seq = .idle := rfl
@[simp] theorem resetRegisters_chip (s : State) : (resetRegisters s).chip = s.chip := rfl
@[simp] theorem resetRegisters_mem (s : State) : (resetRegisters s).mem = s.mem := rfl
@[simp] theorem resetRegisters_history (s : State) : (resetRegisters s).history = [] := rfl

/-- No register reads what `resetRegisters` keeps of the state before, so each reads as in the reset state (R58). -/
@[simp] theorem readReg_resetRegisters (s : State) (r : Reg) : readReg (resetRegisters s) r = 0 := by
  calc
    readReg (resetRegisters s) r = readReg State.reset r := by cases r <;> rfl
    _ = 0 := readReg_reset r

/-! ### blockReset -/

/-- A block reset changes the chip only by abandoning the sequence under way (R392). -/
@[simp] theorem blockReset_chip (s : State) : (blockReset s).chip = (abandon s).chip := resetRegisters_chip _
@[simp] theorem blockReset_platform (s : State) : (blockReset s).platform = s.platform := resetRegisters_platform _
@[simp] theorem blockReset_mem (s : State) : (blockReset s).mem = s.mem := resetRegisters_mem _
@[simp] theorem blockReset_seq (s : State) : (blockReset s).seq = .idle := resetRegisters_seq _
@[simp] theorem blockReset_history (s : State) : (blockReset s).history = [] := resetRegisters_history _

@[simp] theorem readReg_blockReset (s : State) (r : Reg) : readReg (blockReset s) r = 0 := readReg_resetRegisters _ r

theorem blockReset_undef_iff (s : State) :
    (blockReset s).chip.undef = true ↔ s.chip.undef = true ∨ ∃ op k ses, s.seq = .active op k ses ∧ k ∈ insidePositions := by
  rw [blockReset_chip, abandon_undef_iff, midSequence_eq_true_iff]

/-- Settles O52: the registers are those of the reset state, the chip that of `abandon`, which sets its undefined flag inside
a sequence and nothing else. -/
theorem blockResetClearsTheBlock : Obligations.BlockResetClearsTheBlock := by
  intro s
  have hflash : (blockReset s).chip.flash = s.chip.flash := by simp
  have hpending : (blockReset s).chip.pending = s.chip.pending := by simp
  have hlast : (blockReset s).chip.lastOk = s.chip.lastOk := by simp
  exact ⟨blockReset s, rfl, map_readReg_allRegs_eq_zeros (readReg_blockReset s), blockReset_seq s, blockReset_history s,
    blockReset_mem s, blockReset_platform s, hflash, hpending, hlast, blockReset_undef_iff s⟩

end Sys2Proof.Proofs
end

section
/-! PROOFS. What the straight-line code between two micro-steps can do (00_scope.md R21, 60_exceptions.md R351, R354,
R357, R360): it decides on one of six ends, whatever the model's own fields hold. -/

namespace Sys2Proof.Proofs

open Sys2Proof Sys2Proof.Machine

/-! ### The model's own fields -/

/-- Values for the fields of State that are the model's own: the script, the counter of draws, the data of the last host
read (assumption logs 3, 4, 15). -/
structure Own where
  inputs : List Input
  draws : Nat
  readData : Word

/-- `s` with the model's own fields replaced. -/
def Own.set (m : Own) (s : State) : State :=
  { s with inputs := m.inputs, draws := m.draws, readData := m.readData }

/-- The model's own fields of `s`. -/
def Own.get (s : State) : Own := ⟨s.inputs, s.draws, s.readData⟩

/-! ### Decisions -/

/-- How straight-line code ends: at the next micro-step, at the first event of an attempt, or with the command over. -/
inductive Decision where
  | goto (op : Instr) (k : Pos) (ses : Session)
  | attempt (k : Nat) (ses : Session)
  | finish (c : Status)
  | results (r0 r1 : Word)
  | fatal
  | raise (r : FaultReason)

/-- The state a decision leads to. -/
def Decision.apply : Decision → State → State
  | .goto op k ses => Machine.goto op k ses
  | .attempt k ses => beginAttempt k ses
  | .finish c => Machine.finish c
  | .results r0 r1 => finishResults r0 r1
  | .fatal => Machine.fatal
  | .raise r => Machine.raise r

theorem Decision.apply_set (n : Decision) (m : Own) (s : State) : n.apply (m.set s) = m.set (n.apply s) := by
  cases n <;> rfl

/-- No decision touches the memories, the history, OPCOUNT or the fields of `Kept`. -/
theorem Decision.kept_apply (n : Decision) (s : State) : Kept s (n.apply s) := by
  cases n <;> constructor <;> rfl

@[simp] theorem Decision.apply_mem (n : Decision) (s : State) : (n.apply s).mem = s.mem := by cases n <;> rfl

@[simp] theorem Decision.apply_chip (n : Decision) (s : State) : (n.apply s).chip = s.chip := by cases n <;> rfl

@[simp] theorem Decision.apply_history (n : Decision) (s : State) : (n.apply s).history = s.history := by
  cases n <;> rfl

@[simp] theorem Decision.apply_opcount (n : Decision) (s : State) : (n.apply s).opcount = s.opcount := by
  cases n <;> rfl

/-- In the state `s` the code `f` makes a decision with `P`, the same one whatever the model's own fields hold. -/
def Decides (P : Decision → Prop) (s : State) (f : State → State) : Prop :=
  ∃ n, P n ∧ ∀ m : Own, f (m.set s) = n.apply (m.set s)

section
variable {P : Decision → Prop} {s : State}

theorem decides_goto {op : Instr} {k : Pos} {ses : Session} (h : P (.goto op k ses)) :
    Decides P s (goto op k ses) := ⟨_, h, fun _ => rfl⟩

theorem decides_finish {c : Status} (h : P (.finish c)) : Decides P s (finish c) := ⟨_, h, fun _ => rfl⟩

theorem decides_finishResult {r0 : Word} (h : P (.results r0 s.result1)) : Decides P s (finishResult r0) :=
  ⟨_, h, fun _ => rfl⟩

theorem decides_finishResults {r0 r1 : Word} (h : P (.results r0 r1)) : Decides P s (finishResults r0 r1) :=
  ⟨_, h, fun _ => rfl⟩

theorem decides_fatal (h : P .fatal) : Decides P s fatal := ⟨_, h, fun _ => rfl⟩

theorem decides_ite {c : State → Prop} [∀ t, Decidable (c t)] {f g : State → State}
    (hc : ∀ m : Own, c (m.set s) ↔ c s) (hf : c s → Decides P s f) (hg : ¬ c s → Decides P s g) :
    Decides P s fun t => if c t then f t else g t := by
  by_cases h : c s
  · obtain ⟨n, hn, heq⟩ := hf h
    exact ⟨n, hn, fun m => (if_pos ((hc m).mpr h)).trans (heq m)⟩
  · obtain ⟨n, hn, heq⟩ := hg h
    exact ⟨n, hn, fun m => (if_neg (mt (hc m).mp h)).trans (heq m)⟩

theorem decides_raiseOr {f : State → Option FaultReason} {go : State → State} (hf : ∀ m : Own, f (m.set s) = f s)
    (hraise : ∀ r, f s = some r → P (.raise r)) (hgo : f s = none → Decides P s go) :
    Decides P s fun t => raiseOr (f t) go t := by
  cases h : f s with
  | none =>
    obtain ⟨n, hn, heq⟩ := hgo h
    exact ⟨n, hn, fun m => (congrArg (raiseOr · go (m.set s)) ((hf m).trans h)).trans (heq m)⟩
  | some r => exact ⟨_, hraise r h, fun m => congrArg (raiseOr · go (m.set s)) ((hf m).trans h)⟩

/-! ### The shared continuations -/

theorem decides_nextByte {op : Instr} {ses : Session} (hfinish : P (.finish .success))
    (hgoto : ses.rem ≠ 0 → P (.goto op .winRead ses)) : Decides P s (nextByte op ses) :=
  decides_ite (fun _ => Iff.rfl) (fun _ => decides_finish hfinish) fun h => decides_goto (hgoto h)

theorem decides_nextChunk {op : Instr} {ses : Session} (hfinish : P (.finish .success))
    (hgoto : ses.rem ≠ 0 → P (.goto op .ppCmd ses)) : Decides P s (nextChunk op ses) :=
  decides_ite (fun _ => Iff.rfl) (fun _ => decides_finish hfinish) fun h => decides_goto (hgoto h)

theorem decides_nextUnit {ses : Session} (hfinish : P (.finish .success))
    (hgoto : ses.rem ≠ 0 → P (.goto .erase .esCmd ses)) : Decides P s (nextUnit ses) :=
  decides_ite (fun _ => Iff.rfl) (fun _ => decides_finish hfinish) fun h => decides_goto (hgoto h)

theorem decides_nextPair {ses : Session} (hraise : ∀ r, listWordFault s ses.buf = some r → P (.raise r))
    (hgoto : listWordFault s ses.buf = none → P (.goto .eraseBlocks .listLba ses)) : Decides P s (nextPair ses) :=
  decides_raiseOr (f := fun t => listWordFault t ses.buf) (fun _ => rfl) hraise fun h => decides_goto (hgoto h)

theorem decides_nextPairUnit {ses : Session} (hraise : ∀ r, listWordFault s ses.buf = some r → P (.raise r))
    (hpair : listWordFault s ses.buf = none → P (.goto .eraseBlocks .listLba ses))
    (hunit : ses.rem ≠ 0 → P (.goto .eraseBlocks .esCmd ses)) : Decides P s (nextPairUnit ses) :=
  decides_ite (fun _ => Iff.rfl) (fun _ => decides_nextPair hraise hpair) fun h => decides_goto (hunit h)

theorem decides_failAttempt {ses : Session} (hfinish : P (.finish .deviceError))
    (hnext : ses.attempt < eraseRetry → P (.attempt (ses.attempt + 1) ses)) : Decides P s (failAttempt ses) :=
  decides_ite (fun _ => Iff.rfl) (fun _ => decides_finish hfinish) fun h => ⟨_, hnext (Nat.not_le.mp h), fun _ => rfl⟩

end

/-! ### Sessions that stay in bounds -/

/-- The blocks of the LBA range are not empty and lie inside the window (R51, R57). -/
def BlocksInWindow (s : State) : Prop :=
  0 < s.blockSize.toNat ∧ s.devBase.toNat ≤ s.regionBase.toNat ∧
    s.regionBase.toNat + s.totalBlocks.toNat * s.blockSize.toNat ≤ s.devBase.toNat + s.platform.flashSize

/-- What a micro-step at position `k` of `op` may decide on: a session that stays in bounds if the one before was, an
attempt only in the retry controller, results only after a record field, a fault only where a list word is checked. -/
def StepAllows (op : Instr) (k : Pos) (ses : Session) (s : State) : Decision → Prop
  | .goto op' k' ses' => BlocksInWindow s → SessionOk s op k ses → SessionOk s op' k' ses'
  | .attempt n ses' =>
    (op = .eraseBlockRetry ∨ k = .poll) ∧ n ≤ eraseRetry ∧
      (BlocksInWindow s → SessionOk s op k ses →
        SessionOk s .eraseBlockRetry .esCmd { ses' with attempt := n, idx := 0 })
  | .finish _ => True
  | .results r0 r1 => k = .record ∧ r0 = 1 ∧ r1 = s.result1
  | .fatal => True
  | .raise r => r ∈ operandReasons ∧ (op = .eraseBlocks ∨ k = .listLba ∨ k = .listNum)

theorem listWordFault_eq_none {s : State} {a : Nat} (h : listWordFault s a = none) :
    a + s.platform.width.bytes ≤ s.platform.limit ∧ s.platform.hostOk a s.platform.width.bytes := by
  unfold listWordFault at h
  split at h
  · cases h
  · next hlimit =>
    split at h
    · cases h
    · next hhost => exact ⟨Nat.not_lt.mp hlimit, not_not.mp hhost⟩

/-- Part of a range lies where the range does (R18). -/
theorem inside_part {a n b m c l : Nat} (h : inside a n c l) (hlo : a ≤ b) (hhi : b + m ≤ a + n) : inside b m c l := by
  omega

/-- Part of a host range that HOST_OK allows is allowed (R85). -/
theorem hostOk_part {p : Platform} {a n b m : Nat} (h : p.hostOk a n) (hlo : a ≤ b) (hhi : b + m ≤ a + n) :
    p.hostOk b m := by
  rcases h with hn | ⟨r, hr, hin⟩
  · exact .inl (by omega)
  · exact .inr ⟨r, hr, inside_part hin hlo hhi⟩

section
variable {s : State} {op : Instr} {ses : Session}

theorem sessionOk_advanceByte (h : SessionOk s op .memWrite ses) (hrem : (advanceByte ses).rem ≠ 0) :
    SessionOk s op .winRead (advanceByte ses) := by
  obtain ⟨hop, hpos, hwindow, hlimit, hhost⟩ := h
  simp only [advanceByte] at hrem
  refine ⟨hop, Nat.pos_of_ne_zero hrem, inside_part hwindow ?_ ?_, ?_, hostOk_part hhost ?_ ?_⟩ <;> clear hhost <;>
    simp only [advanceByte] <;> omega

theorem sessionOk_advanceChunk (h : SessionOk s op .ppClear ses) (hop' : op ≠ .writeChunk) :
    SessionOk s op .ppCmd (advanceChunk ses) := by
  obtain ⟨hop, -, haddr, hwords, hwindow, hlimit, hhost, -⟩ := h
  refine ⟨hop, (absurd · hop'), ?_, ?_, inside_part hwindow ?_ ?_, ?_, hostOk_part hhost ?_ ?_, nofun⟩ <;>
    clear hhost <;> simp only [advanceChunk, chunkBytes, pageBytes] <;> omega

theorem sessionOk_nextWord {i : Nat} (h : SessionOk s op .ppClear ses) (hi : i < chunkBytes ses / wordBytes) :
    SessionOk s op .ppFetch { ses with idx := i } := by
  obtain ⟨hop, hpage, haddr, hwords, hwindow, hlimit, hhost, -⟩ := h
  exact ⟨hop, hpage, haddr, hwords, hwindow, hlimit, hhost, fun _ => hi⟩

/-- The positions of a page program (R210). -/
abbrev programPositions : List Pos := [.ppCmd, .ppLoad, .ppWe, .ppFetch, .ppData, .ppFlush, .ppClear]

/-- The positions of an erase (R222). -/
abbrev erasePositions : List Pos := [.esCmd, .esLoad, .esAddr, .esLatch]

/-- In a page program every position asks the same of the session, but for the word index. -/
theorem sessionOk_program {k k' : Pos} (hk : k ∈ programPositions) (hk' : k' ∈ programPositions)
    (hword : k' ≠ .ppFetch ∧ k' ≠ .ppData) (h : SessionOk s op k ses) : SessionOk s op k' ses := by
  obtain ⟨hop, hpage, haddr, hwords, hwindow, hlimit, hhost⟩ :
      (op = .writeChunk ∨ op = .write ∨ op = .fvbWrite) ∧ (op = .writeChunk → ses.rem ≤ pageBytes) ∧
      ses.addr % 4 = 0 ∧ ses.rem % 4 = 0 ∧ inWindow s ses.addr ses.rem ∧
      (ses.rem = 0 ∨ ses.buf + ses.rem ≤ s.platform.limit) ∧ s.platform.hostOk ses.buf ses.rem := by
    simp only [List.mem_cons, List.not_mem_nil, or_false] at hk
    rcases hk with rfl | rfl | rfl | rfl | rfl | rfl | rfl <;>
    · obtain ⟨hop, hpage, haddr, hwords, hwindow, hlimit, hhost, -⟩ := h
      exact ⟨hop, hpage, haddr, hwords, hwindow, hlimit, hhost⟩
  simp only [List.mem_cons, List.not_mem_nil, or_false] at hk'
  rcases hk' with rfl | rfl | rfl | rfl | rfl | rfl | rfl <;>
  · exact ⟨hop, hpage, haddr, hwords, hwindow, hlimit, hhost, fun h => by simp_all⟩

theorem sessionOk_advanceUnit (h : SessionOk s op .esLatch ses) (hop : op ≠ .eraseBlockRetry)
    (hrem : (advanceUnit s ses).rem ≠ 0) : SessionOk s op .esCmd (advanceUnit s ses) := by
  obtain ⟨hops, hpos, hwindow, -⟩ := h
  simp only [advanceUnit] at hrem
  obtain ⟨n, hn⟩ : ∃ n, ses.rem = n + 2 := ⟨ses.rem - 2, by omega⟩
  simp only [SessionOk, advanceUnit, hn] at hwindow ⊢
  rw [show n + 2 - 1 = n + 1 by omega, Nat.add_mul] at hwindow
  rw [show n + 2 - 1 - 1 = n by omega]
  exact ⟨hops, by omega, by omega, fun h => absurd h hop⟩

theorem sessionOk_pair {n : Nat} (hblocks : BlocksInWindow s) (hvalid : validPair s ses.datum.toNat n) (hn : n ≠ 0)
    (buf : Nat) :
    SessionOk s .eraseBlocks .esCmd { ses with buf := buf, addr := phys s ses.datum.toNat 0, rem := n } := by
  obtain ⟨hunit, hlo, hhi⟩ := hblocks
  obtain ⟨hl, hn'⟩ := hvalid
  have hlast : (ses.datum.toNat + (n - 1) + 1) * s.blockSize.toNat ≤ s.totalBlocks.toNat * s.blockSize.toNat :=
    Nat.mul_le_mul_right _ (by omega)
  rw [Nat.add_mul, Nat.add_mul] at hlast
  simp only [SessionOk, phys]
  exact ⟨by simp, by omega, by omega, nofun⟩

end

/-! ### The call of each micro-step -/

/-- What the `Bus`, `MemRead`, `MemWrite` or `WinRead` call of a micro-step does to the state (R21). -/
def callAt (k : Pos) (ses : Session) (d : Draw) (s : State) : State :=
  match k with
  | .winRead | .ppFetch | .listLba | .listNum => s
  | .memWrite => memWrite ses.buf 1 ses.datum.toNat s
  | .ppCmd | .esCmd => emitCmd d s
  | .ppLoad | .esLoad => emitLoad d s
  | .ppWe => emitWcfg s.platform.weValue d s
  | .ppData => emitData (wordAddr ses) (ses.datum.setWidth 32) s
  | .ppFlush => emitFlush d s
  | .ppClear => emitWcfg s.platform.weClearValue d s
  | .esAddr => emitAddr ses.addr d s
  | .esLatch => emitLatch ses.addr d s
  | .poll => emitPoll (pollAnswer s.platform s.chip d).1 (pollAnswer s.platform s.chip d).2 s
  | .record => memWrite (ses.buf + fieldBytes * ses.idx) fieldBytes (descriptorField s ses.idx).toNat s

theorem emitFlush_set (d : Draw) (m : Own) (s : State) : emitFlush d (m.set s) = m.set (emitFlush d s) := by
  simp only [emitFlush]
  split <;> rfl

theorem emitLatch_set (b : Nat) (d : Draw) (m : Own) (s : State) :
    emitLatch b d (m.set s) = m.set (emitLatch b d s) := by
  simp only [emitLatch]
  split <;> rfl

theorem callAt_set (k : Pos) (ses : Session) (d : Draw) (m : Own) (s : State) :
    callAt k ses d (m.set s) = m.set (callAt k ses d s) := by
  cases k
  case ppFlush => exact emitFlush_set d m s
  case esLatch => exact emitLatch_set ses.addr d m s
  all_goals rfl

/-- The call leaves the model's own fields alone. -/
theorem Own.set_callAt (k : Pos) (ses : Session) (d : Draw) (s : State) :
    (Own.get s).set (callAt k ses d s) = callAt k ses d s := (callAt_set k ses d (Own.get s) s).symm

/-! ### What each command does after its loop or sequence -/

section
variable {op : Instr} {k : Pos} {ses : Session} {s : State}

theorem decides_afterCopy : Decides (StepAllows op .memWrite ses s) s (afterCopy op ses) := by
  cases op
  case read | fvbRead => exact decides_nextByte trivial fun hrem _ h => sessionOk_advanceByte h hrem
  all_goals exact decides_finish trivial

theorem decides_afterProgram {st : Status} (hk : k ∈ programPositions) :
    Decides (StepAllows op k ses s) s (afterProgram op st ses) := by
  cases op
  case write | fvbWrite =>
    exact decides_ite (fun _ => Iff.rfl) (fun _ => decides_fatal trivial) fun _ =>
      decides_nextChunk trivial fun _ _ h =>
        sessionOk_advanceChunk (sessionOk_program hk (by simp) (by simp) h) nofun
  all_goals exact decides_finish trivial

/-- In an erase every position asks the same of the session. -/
theorem sessionOk_erase {k' : Pos} (hk : k ∈ erasePositions)
    (hk' : k' ∈ erasePositions) (h : SessionOk s op k ses) : SessionOk s op k' ses := by
  simp only [List.mem_cons, List.not_mem_nil, or_false] at hk hk'
  rcases hk with rfl | rfl | rfl | rfl <;> rcases hk' with rfl | rfl | rfl | rfl <;> exact h

theorem sessionOk_eraseBlocks_list (h : listWordFault s ses.buf = none) : SessionOk s .eraseBlocks .listLba ses :=
  ⟨rfl, listWordFault_eq_none h⟩

theorem sessionOk_nextAttempt (hrem : ses.rem = 1) (hwindow : inWindow s ses.addr 1) {n : Nat} (hn : 1 ≤ n)
    (hten : n ≤ eraseRetry) : SessionOk s .eraseBlockRetry .esCmd { ses with attempt := n, idx := 0 } := by
  simp only [SessionOk, hrem]
  exact ⟨by simp, by omega, by simpa using hwindow, fun _ => ⟨trivial, hn, hten⟩⟩

theorem decides_afterErase {st : Status} (hk : k ∈ erasePositions) :
    Decides (StepAllows op k ses s) s (afterErase op st ses) := by
  cases op
  case erase =>
    refine decides_ite (c := fun _ => st ≠ .success) (g := nextUnit (advanceUnit s ses)) (fun _ => Iff.rfl)
      (fun _ => decides_fatal trivial) fun _ => ?_
    exact decides_nextUnit trivial fun hrem _ h => sessionOk_advanceUnit (sessionOk_erase hk (by simp) h) nofun hrem
  case eraseBlocks =>
    refine decides_ite (c := fun _ => st ≠ .success) (g := nextPairUnit (advanceUnit s ses)) (fun _ => Iff.rfl)
      (fun _ => decides_fatal trivial) fun _ => ?_
    exact decides_nextPairUnit (fun r hr => ⟨checksOperands_listWordFault r hr, .inl rfl⟩)
      (fun h _ _ => sessionOk_eraseBlocks_list h)
      fun hrem _ h => sessionOk_advanceUnit (sessionOk_erase hk (by simp) h) nofun hrem
  case eraseBlockRetry =>
    have hretry (h : SessionOk s .eraseBlockRetry k ses) :
        ses.rem = 1 ∧ inWindow s ses.addr 1 ∧ 1 ≤ ses.attempt ∧ ses.attempt ≤ eraseRetry := by
      obtain ⟨-, -, hwindow, hone⟩ := sessionOk_erase (k' := .esCmd) hk (by simp) h
      obtain ⟨hrem, hattempt⟩ := hone rfl
      exact ⟨hrem, by simpa [hrem] using hwindow, hattempt⟩
    refine decides_ite (fun _ => Iff.rfl) (fun _ => decides_goto fun _ h => ?_) fun _ =>
      decides_failAttempt trivial fun hlt => ⟨.inl rfl, hlt, fun _ h => ?_⟩
    · exact ⟨rfl, hretry h⟩
    · obtain ⟨hrem, hwindow, -, -⟩ := hretry h
      exact sessionOk_nextAttempt hrem hwindow (by omega) hlt
  all_goals exact decides_finish trivial

theorem decides_contPoll {busy ok : Bool} : Decides (StepAllows op .poll ses s) s (contPoll busy ok ses) := by
  have hfail : Decides (StepAllows op .poll ses s) s (failAttempt ses) :=
    decides_failAttempt trivial fun hlt => ⟨.inr rfl, hlt, fun _ ⟨_, hrem, hwindow, _, _⟩ =>
      sessionOk_nextAttempt hrem hwindow (by omega) hlt⟩
  refine decides_ite (fun _ => Iff.rfl) (fun _ => ?_) fun _ => ?_
  · refine decides_ite (c := fun t => t.platform.pollLimit = some (ses.idx + 1)) (fun _ => Iff.rfl) (fun _ => hfail)
      fun _ => decides_goto fun _ h => ?_
    obtain ⟨rfl, hpoll⟩ := h
    exact ⟨rfl, hpoll⟩
  · exact decides_ite (fun _ => Iff.rfl) (fun _ => decides_finish trivial) fun _ => hfail

theorem decides_contListLba {l : Nat} : Decides (StepAllows op .listLba ses s) s (contListLba l ses) := by
  let count : Session := { ses with buf := ses.buf + s.platform.width.bytes, datum := wordOf l }
  refine decides_ite (c := fun t => l = listTerminator t.platform)
    (g := fun t => raiseOr (listWordFault t count.buf) (goto .eraseBlocks .listNum count) t) (fun _ => Iff.rfl)
    (fun _ => decides_finish trivial) fun _ => ?_
  exact decides_raiseOr (f := fun t => listWordFault t count.buf) (fun _ => rfl)
    (fun r hr => ⟨checksOperands_listWordFault r hr, .inr (.inl rfl)⟩)
    fun h => decides_goto fun _ _ => ⟨rfl, listWordFault_eq_none h⟩

theorem decides_contListNum {n : Nat} : Decides (StepAllows op .listNum ses s) s (contListNum n ses) := by
  refine decides_ite (c := fun t => validPair t ses.datum.toNat n)
    (f := nextPairUnit { ses with
      buf := ses.buf + s.platform.width.bytes, addr := phys s ses.datum.toNat 0, rem := n })
    (g := nextPair { ses with
      buf := ses.buf + s.platform.width.bytes, firstErr := keepFirst ses.firstErr .invalidParameter })
    (fun _ => Iff.rfl) (fun hvalid => ?_) fun _ => ?_
  · exact decides_nextPairUnit (fun r hr => ⟨checksOperands_listWordFault r hr, .inr (.inr rfl)⟩)
      (fun h _ _ => sessionOk_eraseBlocks_list h) fun hn hblocks _ => sessionOk_pair hblocks hvalid hn _
  · exact decides_nextPair (fun r hr => ⟨checksOperands_listWordFault r hr, .inr (.inr rfl)⟩)
      fun h _ _ => sessionOk_eraseBlocks_list h

theorem decides_contGetDevices : Decides (StepAllows op .record ses s) s (contGetDevices ses) := by
  refine decides_ite (fun _ => Iff.rfl) (fun hidx => decides_goto fun _ h => ?_) fun _ =>
    decides_finishResult ⟨rfl, rfl, rfl⟩
  obtain ⟨rfl, -, hrange⟩ := h
  exact ⟨rfl, hidx, hrange⟩

theorem decides_nextWord {i : Nat} (hk : k ∈ programPositions) :
    Decides (StepAllows op k ses s) s (nextWord op i ses) :=
  decides_ite (fun _ => Iff.rfl)
    (fun hi => decides_goto fun _ h => sessionOk_nextWord (sessionOk_program hk (by simp) (by simp) h) hi)
    fun _ => decides_goto fun _ h => sessionOk_program hk (by simp) (by simp) h

/-- A configure event goes on when it is answered OK and ends its sequence when it is not (R210, R222). -/
theorem decides_answer {d : Draw} {P : Decision → Prop} {f g : State → State} (hf : Decides P s f)
    (hg : Decides P s g) : Decides P s fun t => if d.ok then f t else g t :=
  decides_ite (c := fun _ => d.ok = true) (fun _ => Iff.rfl) (fun _ => hf) fun _ => hg

end

/-! ### Every micro-step -/

/-- A micro-step is its call and a decision that its position allows; the decision does not depend on the model's own
fields. -/
theorem microAt_decides (op : Instr) (k : Pos) (ses : Session) (d : Draw) (s : State) :
    ∃ n, StepAllows op k ses (callAt k ses d s) n ∧
      ∀ m : Own, microAt op k ses d (m.set s) = n.apply (m.set (callAt k ses d s)) := by
  cases k
  case winRead =>
    exact ⟨.goto op .memWrite { ses with datum := (winRead s ses.addr d.byte).setWidth 64 }, fun _ h => h,
      fun _ => rfl⟩
  case ppFetch =>
    refine ⟨.goto op .ppData { ses with datum := wordOf (memRead s (ses.buf + wordBytes * ses.idx) wordBytes) },
      fun _ h => ?_, fun _ => rfl⟩
    obtain ⟨hop, hpage, haddr, hwords, hwindow, hlimit, hhost, hidx⟩ := h
    exact ⟨hop, hpage, haddr, hwords, hwindow, hlimit, hhost, fun _ => hidx (.inl rfl)⟩
  case memWrite => exact decides_afterCopy (s := callAt .memWrite ses d s)
  case ppCmd =>
    exact decides_answer (s := callAt .ppCmd ses d s)
      (decides_goto fun _ h => sessionOk_program (by simp) (by simp) (by simp) h) (decides_afterProgram (by simp))
  case ppLoad =>
    exact decides_answer (s := callAt .ppLoad ses d s)
      (decides_goto fun _ h => sessionOk_program (by simp) (by simp) (by simp) h) (decides_afterProgram (by simp))
  case ppWe =>
    exact decides_answer (s := callAt .ppWe ses d s)
      (decides_nextWord (by simp)) (decides_afterProgram (by simp))
  case ppData => exact decides_nextWord (s := callAt .ppData ses d s) (by simp)
  case ppFlush =>
    simp only [microAt, emitFlush_set]
    exact decides_answer (s := callAt .ppFlush ses d s)
      (decides_goto fun _ h => sessionOk_program (by simp) (by simp) (by simp) h) (decides_afterProgram (by simp))
  case ppClear =>
    exact decides_answer (s := callAt .ppClear ses d s)
      (decides_afterProgram (by simp)) (decides_afterProgram (by simp))
  case esCmd =>
    exact decides_answer (s := callAt .esCmd ses d s) (decides_goto fun _ h => h) (decides_afterErase (by simp))
  case esLoad =>
    exact decides_answer (s := callAt .esLoad ses d s) (decides_goto fun _ h => h) (decides_afterErase (by simp))
  case esAddr =>
    exact decides_answer (s := callAt .esAddr ses d s) (decides_goto fun _ h => h) (decides_afterErase (by simp))
  case esLatch =>
    simp only [microAt, emitLatch_set]
    exact decides_answer (s := callAt .esLatch ses d s) (decides_afterErase (by simp)) (decides_afterErase (by simp))
  case poll =>
    exact decides_contPoll (busy := (pollAnswer s.platform s.chip d).1) (ok := (pollAnswer s.platform s.chip d).2)
      (s := callAt .poll ses d s)
  case listLba => exact decides_contListLba (l := memRead s ses.buf s.platform.width.bytes) (s := s)
  case listNum => exact decides_contListNum (n := memRead s ses.buf s.platform.width.bytes) (s := s)
  case record => exact decides_contGetDevices (s := callAt .record ses d s)

/-- A running command's micro-step: its call, then a decision. -/
theorem microStep_decides {s : State} {op : Instr} {k : Pos} {ses : Session} (hseq : s.seq = .active op k ses)
    (d : Draw) : ∃ n, StepAllows op k ses (callAt k ses d s) n ∧ microStep d s = n.apply (callAt k ses d s) := by
  obtain ⟨n, hn, heq⟩ := microAt_decides op k ses d s
  have hself := heq (Own.get s)
  rw [Own.set_callAt] at hself
  exact ⟨n, hn, (microStep_active hseq d).trans hself⟩

/-- A micro-step neither looks at the model's own fields nor changes them. -/
theorem microStep_set (d : Draw) (m : Own) (s : State) : microStep d (m.set s) = m.set (microStep d s) := by
  cases hseq : s.seq with
  | idle => rw [microStep, microStep, hseq, show (m.set s).seq = .idle from hseq]
  | active op k ses =>
    obtain ⟨n, -, heq⟩ := microAt_decides op k ses d s
    rw [microStep_active hseq, microStep_active (s := m.set s) hseq, heq m, n.apply_set]
    exact congrArg m.set ((heq (Own.get s)).trans (congrArg n.apply (Own.set_callAt k ses d s))).symm

end Sys2Proof.Proofs
end

section
/-! PROOFS. Steps that take moves from the script: a program line's host writes (30_encoding.md R140, R162), a command
write (R351), and the sequencer's micro-steps (00_scope.md R21). -/

namespace Sys2Proof.Proofs

open Sys2Proof Sys2Proof.Machine

/-! ### Runs of steps -/

/-- What a run does after its first step. -/
theorem core_run_succ {s t : State} (h : step s = .next t) (k : Nat) : core.run (k + 1) s = core.run k t := by
  simp only [Host.Core.run, show core.step s = .next t from h]

/-- A run of one step is that step, whatever it answers. -/
theorem core_run_one (s : State) : core.run 1 s = step s := by
  simp only [Host.Core.run]
  cases h : core.step s <;> exact h.symm

/-! ### The sequencer's moves -/

/-- Settles O40: by induction over the draws, the first step being the first draw's micro-step, which leaves the script
alone. -/
theorem sequencerStepsAreMicroSteps : Obligations.SequencerStepsAreMicroSteps := by
  intro s ds rest hwf hinputs
  induction ds generalizing s with
  | nil => exact congrArg (fun i => (.next { s with inputs := i } : Result)) hinputs
  | cons d ds ih =>
    let left : Own := { Own.get s with inputs := ds.map Input.sequencer ++ rest }
    let t := microStep d (left.set s)
    have hstep : step s = .next t := step_input hwf hinputs
    have hkept : Kept (left.set s) t := kept_microStep d _
    have hdone : { t with inputs := rest } = microStep d { s with inputs := rest } := by
      have hdraws : t.draws = s.draws := hkept.draws
      have hdata : t.readData = s.readData := hkept.readData
      let done : Own := { Own.get s with inputs := rest }
      calc { t with inputs := rest }
          = done.set t := by simp only [Own.set, done, Own.get, hdraws, hdata]
        _ = microStep d (done.set (left.set s)) := (microStep_set d done _).symm
        _ = microStep d { s with inputs := rest } := rfl
    rw [List.length_cons, core_run_succ hstep, ih t (hkept.platform ▸ hwf) hkept.inputs, hdone]
    rfl

/-! ### Command writes -/

/-- The command word of a command stands for it (R140, R141). -/
theorem decode_encode (i : Instr) : decode (encode i) = .ok i :=
  decode_eq_ok_iff.mpr (by cases i <;> rfl)

/-- A host write of a command's word to CMD is the command (R140, R351). -/
theorem step_commandWrite {s : State} {v : Word} {i : Instr} {rest : List Input} (hwf : s.platform.WF)
    (hdecode : decode v = .ok i) (hinputs : s.inputs = .hostWrite (s.platform.blockBase + 0x000) 8 v :: rest) :
    step s = exec i { s with inputs := rest } := by
  rw [step_input hwf hinputs]
  refine (move_hostWrite_reg (s := { s with inputs := rest }) (bankOk_of_wf hwf) .cmd v).trans ?_
  rw [writeReg, writeCmd, hdecode]

/-- Settles O4: `step_commandWrite`; a placed word is such a write before the script. -/
theorem stepRunsDecodedCommand : Obligations.StepRunsDecodedCommand := by
  refine ⟨fun s v i rest hwf hdecode hinputs => step_commandWrite hwf hdecode hinputs, fun s nbits w i hwf htable => ?_⟩
  have hdecode : decode (wordOf (w % 2 ^ nbits)) = .ok i := by
    unfold decodeTableWord at htable
    split at htable <;> cases htable
    assumption
  exact step_commandWrite (s := s.withFetchWord nbits w) hwf hdecode rfl

/-- Settles O5: by evaluation. -/
theorem writtenOutWordsDecode : Obligations.WrittenOutWordsDecode := by
  unfold Obligations.WrittenOutWordsDecode
  decide

/-! ### Operand writes -/

/-- The ARG registers in order (R131). -/
def argReg : Nat → Reg
  | 0 => .arg0
  | 1 => .arg1
  | 2 => .arg2
  | _ => .arg3

/-- `s` with ARG register `n` holding `w`. -/
def withArg (n : Nat) (w : Word) (s : State) : State :=
  { s with
    arg0 := if n = 0 then w else s.arg0
    arg1 := if n = 1 then w else s.arg1
    arg2 := if n = 2 then w else s.arg2
    arg3 := if n = 3 then w else s.arg3 }

/-- `s` with the ARG registers from `n` on holding the operands `vs`. -/
def withArgsFrom : Nat → List Nat → State → State
  | _, [], s => s
  | n, v :: vs, s => withArgsFrom (n + 1) vs (withArg n (wordOf v) s)

theorem regOffset_argReg {n : Nat} (hn : n < 4) : regOffset (argReg n) = argOffset n := by
  match n, hn with
  | 0, _ | 1, _ | 2, _ | 3, _ => rfl

/-- No bit of a `W`-bit value is lost in a `W`-bit register (R132). -/
theorem trunc_wordOf {w : Width} {v : Nat} (hv : v < w.limit) : w.trunc (wordOf v) = wordOf v := by
  cases w with
  | w64 => rfl
  | w32 =>
    have hv : v < 2 ^ 32 := hv
    refine BitVec.eq_of_toNat_eq ?_
    simp only [Width.trunc, BitVec.toNat_setWidth, BitVec.toNat_ofNat]
    omega

theorem writeReg_argReg {n : Nat} (hn : n < 4) (v : Word) (s : State) :
    writeReg (argReg n) v s = .next (writeArg (withArg n) v s) := by
  match n, hn with
  | 0, _ | 1, _ | 2, _ | 3, _ => rfl

/-- The host's write of an operand of an idle block, as a step (R134, R162). -/
theorem step_argWrite {s : State} {n v : Nat} {rest : List Input} (hwf : s.platform.WF) (hn : n < 4)
    (hv : v < s.platform.limit) (hfault : s.fault = false) (hbusy : s.busy = false)
    (hinputs : s.inputs = .hostWrite (s.platform.blockBase + argOffset n) 8 (wordOf v) :: rest) :
    step s = .next (withArg n (wordOf v) { s with inputs := rest }) := by
  rw [step_input hwf hinputs, ← regOffset_argReg hn]
  refine (move_hostWrite_arg (s := { s with inputs := rest }) (bankOk_of_wf hwf) (writeReg_argReg hn _ _)).trans ?_
  simp [hfault, hbusy, trunc_wordOf hv]

/-- A line has at most four operands (R142). -/
theorem arity_le (i : Instr) : i.arity ≤ 4 := by cases i <;> decide

/-- The host's writes of the operands `vs` to the ARG registers from `n` on. -/
def operandWrites (p : Platform) (n : Nat) (vs : List Nat) : List Input :=
  (vs.zipIdx n).map fun e => .hostWrite (p.blockBase + argOffset e.2) 8 (wordOf e.1)

/-- A program line's moves: its operands, its opcode, the wait (R162). -/
theorem lineInputs_eq (p : Platform) (l : Line) (ds : List Draw) :
    lineInputs p l ds = operandWrites p 0 l.operands ++
      [.hostWrite (p.blockBase + 0x000) 8 (encode l.instr), .awaitIdle ds] := by
  simp [lineInputs, encodeLine, operandWrites, regOffset, List.map_map, Function.comp_def]

/-- The host's writes of the operands, as steps of an idle block. -/
theorem core_run_operandWrites {s : State} {n : Nat} {vs : List Nat} {rest : List Input} (k : Nat)
    (hwf : s.platform.WF) (hn : n + vs.length ≤ 4) (hvs : ∀ v ∈ vs, v < s.platform.limit) (hfault : s.fault = false)
    (hbusy : s.busy = false) (hinputs : s.inputs = operandWrites s.platform n vs ++ rest) :
    core.run (vs.length + k) s = core.run k (withArgsFrom n vs { s with inputs := rest }) := by
  induction vs generalizing n s with
  | nil =>
    rw [withArgsFrom, List.length_nil, Nat.zero_add, ← show s.inputs = rest from hinputs]
  | cons v vs ih =>
    rw [List.length_cons] at hn
    rw [List.forall_mem_cons] at hvs
    have hstep := step_argWrite hwf (by omega) hvs.1 hfault hbusy hinputs
    rw [List.length_cons, Nat.add_right_comm, core_run_succ hstep]
    exact ih (n := n + 1) hwf (by omega) hvs.2 hfault hbusy rfl

/-- At most four operands fill the ARG registers from ARG0 on (R142, R162). -/
theorem withArgsFrom_zero {vs : List Nat} (hvs : vs.length ≤ 4) (s : State) : withArgsFrom 0 vs s = loadArgs vs s := by
  match vs, hvs with
  | [], _ | [_], _ | [_, _], _ | [_, _, _], _ | [_, _, _, _], _ => rfl

/-- Settles O3: the operands' writes load them one by one, and the write to CMD runs the command. -/
theorem programLineLoadsOperandsThenRuns : Obligations.ProgramLineLoadsOperandsThenRuns := by
  intro s l ds rest hwf ⟨hlength, hvalues⟩ hfault hbusy hinputs
  have hfour : l.operands.length ≤ 4 := hlength ▸ arity_le l.instr
  let t := withArgsFrom 0 l.operands
    { s with inputs := [.hostWrite (s.platform.blockBase + 0x000) 8 (encode l.instr), .awaitIdle ds] ++ rest }
  rw [lineInputs_eq, List.append_assoc] at hinputs
  have hrun : core.run (l.operands.length + 1) s = core.run 1 t :=
    core_run_operandWrites 1 hwf (by omega) hvalues hfault hbusy hinputs
  have hloaded : t = loadArgs l.operands _ := withArgsFrom_zero hfour _
  have hstep : step t = exec l.instr { t with inputs := .awaitIdle ds :: rest } :=
    step_commandWrite (hloaded ▸ hwf) (decode_encode l.instr) (by rw [hloaded]; rfl)
  rw [hrun, core_run_one, hstep, hloaded]
  rfl

end Sys2Proof.Proofs
end

section
/-! PROOFS. What one step of the machine can do (00_scope.md R9, 60_exceptions.md R351), said once, apart from the
model's own fields. -/

namespace Sys2Proof.Proofs

open Sys2Proof Sys2Proof.Machine

/-! ### The pseudocode of a command up to its first micro-step -/

/-- What a command's pseudocode loads into registers before it ends (R203, R294, R330). -/
inductive Loads (i : Instr) (ses : Session) (s : State) : State → Prop where
  | nothing : Loads i ses s s
  | configuration (hi : i = .init) (hpresent : s.platform.cfg.present = true) : Loads i ses s (loadConfiguration s)
  | attributes (hi : i = .setAttributes) : Loads i ses s { s with attr := ses.a0.extractLsb' 0 32 }
  | controllerBase (hi : i = .relocate) (hfit : s.platform.PortsFit ses.a0.toNat) :
    Loads i ses s { s with ctrlBase := ses.a0, lstate := .relocated }

/-- What a command may decide on before its first micro-step: a session in bounds, but not for INIT, an attempt only
in the retry controller, results that fit their registers, the fault of a check, and never `fatal`. -/
def StartAllows (i : Instr) (s : State) : Decision → Prop
  | .goto op k ses => i ≠ .init ∧ (BlocksInWindow s → SessionOk s op k ses)
  | .attempt n ses =>
    i = .eraseBlockRetry ∧ n ≤ eraseRetry ∧ SessionOk s .eraseBlockRetry .esCmd { ses with attempt := n, idx := 0 }
  | .finish _ => True
  | .results r0 r1 =>
    (r0.toNat < 2 ^ 32 ∨ r0 = s.blockSize ∨ r0 = s.regionBase) ∧ (r1 = s.result1 ∨ r1.toNat ≤ s.totalBlocks.toNat)
  | .fatal => False
  | .raise r => r ∈ operandReasons

theorem bufferFault_eq_none {s : State} {buf len : Nat} (h : bufferFault s buf len = none) : BufferOk s buf len := by
  unfold bufferFault at h
  split_ifs at h with hlen hlimit hhost
  · exact .inl hlen
  · exact .inr ⟨Nat.not_lt.mp hlimit, hhost⟩

theorem transferOk_of_fault_eq_none {s : State} {addr buf len : Nat} (h : transferFault s addr buf len = none) :
    TransferOk s addr buf len := by
  unfold transferFault at h
  split_ifs at h with hlen hlimit hwindow hhost
  · exact .inl hlen
  · by_cases hzero : len = 0
    · exact .inl hzero
    · obtain ⟨haddr, hbuf⟩ := not_or.mp hlimit
      obtain ⟨hlo, hhi⟩ := hwindow.resolve_left hzero
      exact .inr ⟨Nat.not_lt.mp haddr, Nat.not_lt.mp hbuf, hlo, hhi, hhost⟩

theorem eraseFault_eq_none {s : State} {off len n unit : Nat} (h : eraseFault s off len n unit = none) :
    n = 0 ∨ inWindow s off ((n - 1) * unit + 1) := by
  unfold eraseFault at h
  split_ifs at h with hn hlimit hwindow
  · exact .inl hn
  · exact .inr hwindow

theorem eraseAddressFault_eq_none {s : State} {b : Nat} (h : eraseAddressFault s b = none) : inWindow s b 1 := by
  unfold eraseAddressFault at h
  split_ifs at h with hwindow
  exact hwindow

section
variable {s : State} {ses : Session} {addr buf len : Nat}

/-- A transfer that passed its checks is a copy loop in bounds (R204). -/
theorem sessionOk_copy {op : Instr} (hop : op = .read ∨ op = .fvbRead) (hlen : len ≠ 0) (hwindow : inWindow s addr len)
    (hbuf : buf + len ≤ s.platform.limit) (hhost : s.platform.hostOk buf len) :
    SessionOk s op .winRead { ses with addr := addr, buf := buf, rem := len } :=
  ⟨hop, Nat.pos_of_ne_zero hlen, hwindow, hbuf, hhost⟩

/-- A write that passed its checks is a page program in bounds (R210, R214). -/
theorem sessionOk_write {op : Instr} (hop : op = .writeChunk ∨ op = .write ∨ op = .fvbWrite)
    (hpage : op = .writeChunk → len ≤ pageBytes) (haddr : addr % 4 = 0) (hwords : len % 4 = 0)
    (hwindow : inWindow s addr len) (hbuf : BufferOk s buf len) :
    SessionOk s op .ppCmd { ses with addr := addr, buf := buf, rem := len } :=
  ⟨hop, hpage, haddr, hwords, hwindow, hbuf.imp_right fun ⟨hlimit, _⟩ => hlimit,
    hbuf.elim .inl fun ⟨_, hhost⟩ => hhost, nofun⟩

theorem inWindow_of_transferOk (h : TransferOk s addr buf len) : inWindow s addr len :=
  h.imp_right fun ⟨_, _, hlo, hhi, _⟩ => ⟨hlo, hhi⟩

theorem bufferOk_of_transferOk (h : TransferOk s addr buf len) : BufferOk s buf len :=
  h.imp_right fun ⟨_, hbuf, _, _, hhost⟩ => ⟨hbuf, hhost⟩

/-- A range inside a block of the LBA range lies in the window (R281, R287). -/
theorem inWindow_phys (hblocks : BlocksInWindow s) {l o : Nat} (hl : l < s.totalBlocks.toNat)
    (ho : o + len ≤ s.blockSize.toNat) : inWindow s (phys s l o) len := by
  obtain ⟨-, hlo, hhi⟩ := hblocks
  have hlast : (l + 1) * s.blockSize.toNat ≤ s.totalBlocks.toNat * s.blockSize.toNat := Nat.mul_le_mul_right _ hl
  rw [Nat.add_mul, Nat.one_mul] at hlast
  simp only [phys]
  omega

end

/-- Units to erase that passed their check are an erase in bounds (R223, R225). -/
theorem sessionOk_eraseUnits {s : State} {ses : Session} {op : Instr} {addr n : Nat}
    (hop : op = .eraseSingleBlock ∨ op = .erase) (hn : n ≠ 0)
    (hwindow : inWindow s addr ((n - 1) * s.blockSize.toNat + 1)) :
    SessionOk s op .esCmd { ses with addr := addr, rem := n } :=
  ⟨by rcases hop with rfl | rfl <;> simp, Nat.pos_of_ne_zero hn, hwindow, by rcases hop with rfl | rfl <;> nofun⟩

/-! ### Results that fit their registers -/

theorem toNat_setWidth_lt (v : BitVec 32) : (v.setWidth 64).toNat < 2 ^ 32 := by
  rw [BitVec.toNat_setWidth_of_le (by decide)]
  exact v.isLt

theorem toNat_wordOf_sub_le (v : Word) (n : Nat) : (wordOf (v.toNat - n)).toNat ≤ v.toNat := by
  rw [BitVec.toNat_ofNat]
  exact (Nat.mod_le _ _).trans (Nat.sub_le _ _)

/-! ### Every command -/

/-- A command's pseudocode loads what it loads and then makes a decision that a start allows (R351, R353). -/
theorem startOf_decides (i : Instr) (t s : State) :
    ∃ u, Loads i (snapshot t) s u ∧ ∃ n, StartAllows i u n ∧
      ∀ m : Own, startOf i (snapshot t) (m.set s) = n.apply (m.set u) := by
  cases i
  case init =>
    by_cases hpresent : s.platform.cfg.present = true
    · by_cases hcapability : s.platform.cfg.capabilityPresent = true
      · by_cases hresources : s.platform.cfg.resourcesOk = true
        · refine ⟨_, .configuration rfl hpresent, .finish .success, trivial, fun m => ?_⟩
          simp only [startOf, startInit, Own.set, hpresent, hcapability, hresources, not_true_eq_false, if_false]
          rfl
        · exact ⟨s, .nothing, .finish .outOfResources, trivial, fun m => by
            simp [startOf, startInit, Own.set, hpresent, hcapability, hresources, Decision.apply]⟩
      · exact ⟨s, .nothing, .finish .deviceError, trivial, fun m => by
          simp [startOf, startInit, Own.set, hpresent, hcapability, Decision.apply]⟩
    · exact ⟨s, .nothing, .finish .configMissing, trivial, fun m => by
        simp [startOf, startInit, Own.set, hpresent, Decision.apply]⟩
  case setAttributes =>
    exact ⟨_, .attributes rfl, .results ((t.arg0.extractLsb' 0 32).setWidth 64) s.result1,
      ⟨.inl (toNat_setWidth_lt _), .inl rfl⟩, fun m => rfl⟩
  case relocate =>
    by_cases hfit : s.platform.PortsFit (snapshot t).a0.toNat
    · exact ⟨_, .controllerBase rfl hfit, .finish .success, trivial, fun m => startRelocate_of_fit (s := m.set s) hfit⟩
    · exact ⟨s, .nothing, .raise .overflow, by simp [StartAllows], fun m =>
        startRelocate_of_not_fit (s := m.set s) hfit⟩
  all_goals
    refine ⟨s, .nothing, ?_⟩
    change Decides (StartAllows _ s) s (startOf _ (snapshot t))
  case getAttributes =>
    exact ⟨.results (s.attr.setWidth 64) s.result1, ⟨.inl (toNat_setWidth_lt _), .inl rfl⟩, fun m => rfl⟩
  case getPhysicalAddress => exact ⟨.results s.regionBase s.result1, ⟨.inr (.inr rfl), .inl rfl⟩, fun m => rfl⟩
  case getBlockSize =>
    exact decides_ite (c := fun t' => t'.totalBlocks.toNat ≤ t.arg0.toNat)
      (g := finishResults s.blockSize (wordOf (s.totalBlocks.toNat - t.arg0.toNat))) (fun _ => Iff.rfl)
      (fun _ => decides_finish trivial)
      fun _ => decides_finishResults ⟨.inr (.inl rfl), .inr (toNat_wordOf_sub_le _ _)⟩
  case read =>
    exact decides_raiseOr (f := fun t' => transferFault t' t.arg0.toNat t.arg1.toNat t.arg2.toNat) (fun _ => rfl)
      checksOperands_transferFault fun hnone => decides_nextByte trivial fun hrem => ⟨nofun, fun _ =>
        have hok := transferOk_of_fault_eq_none hnone
        have ⟨hbuf, hhost⟩ := (bufferOk_of_transferOk hok).resolve_left hrem
        sessionOk_copy (.inl rfl) hrem (inWindow_of_transferOk hok) hbuf hhost⟩
  case writeChunk =>
    refine decides_ite (fun _ => Iff.rfl) (fun _ => decides_finish trivial) fun hparams => ?_
    obtain ⟨hpage, hlen, haddr⟩ : t.arg2.toNat ≤ pageBytes ∧ t.arg2.toNat % 4 = 0 ∧ t.arg0.toNat % 4 = 0 := by
      simpa [wordBytes, snapshot] using hparams
    exact decides_raiseOr (f := fun t' => transferFault t' t.arg0.toNat t.arg1.toNat t.arg2.toNat) (fun _ => rfl)
      checksOperands_transferFault fun hnone => decides_goto ⟨nofun, fun _ =>
        have hok := transferOk_of_fault_eq_none hnone
        sessionOk_write (.inl rfl) (fun _ => hpage) haddr hlen (inWindow_of_transferOk hok)
          (bufferOk_of_transferOk hok)⟩
  case write =>
    refine decides_ite (fun _ => Iff.rfl) (fun _ => decides_finish trivial) fun hparams => ?_
    obtain ⟨haddr, hlen⟩ : t.arg0.toNat % 4 = 0 ∧ t.arg2.toNat % 4 = 0 := by
      simpa [wordBytes, snapshot] using hparams
    exact decides_raiseOr (f := fun t' => transferFault t' t.arg0.toNat t.arg1.toNat t.arg2.toNat) (fun _ => rfl)
      checksOperands_transferFault fun hnone => decides_nextChunk trivial fun _ => ⟨nofun, fun _ =>
        have hok := transferOk_of_fault_eq_none hnone
        sessionOk_write (.inr (.inl rfl)) nofun haddr hlen (inWindow_of_transferOk hok) (bufferOk_of_transferOk hok)⟩
  case eraseSingleBlock =>
    exact decides_raiseOr (f := fun t' => eraseAddressFault t' t.arg0.toNat) (fun _ => rfl)
      checksOperands_eraseAddressFault fun hnone => decides_goto ⟨nofun, fun _ =>
        sessionOk_eraseUnits (.inl rfl) Nat.one_ne_zero (by simpa [snapshot] using eraseAddressFault_eq_none hnone)⟩
  case eraseBlockRetry =>
    exact decides_raiseOr (f := fun t' => eraseAddressFault t' t.arg0.toNat) (fun _ => rfl)
      checksOperands_eraseAddressFault fun hnone => ⟨.attempt 1 _, ⟨rfl, by decide,
        sessionOk_nextAttempt rfl (eraseAddressFault_eq_none hnone) (Nat.le_refl 1) (by decide)⟩, fun _ => rfl⟩
  case erase =>
    let n := t.arg1.toNat / s.blockSize.toNat
    refine decides_ite (c := fun t' => t.arg1.toNat % t'.blockSize.toNat ≠ 0)
      (g := fun t' => raiseOr (eraseFault t' t.arg0.toNat t.arg1.toNat n s.blockSize.toNat)
        (nextUnit { snapshot t with addr := t.arg0.toNat, rem := n }) t')
      (fun _ => Iff.rfl) (fun _ => decides_finish trivial) fun _ => ?_
    exact decides_raiseOr (f := fun t' => eraseFault t' t.arg0.toNat t.arg1.toNat n s.blockSize.toNat) (fun _ => rfl)
      checksOperands_eraseFault fun hnone => decides_nextUnit trivial fun hrem => ⟨nofun, fun _ =>
        sessionOk_eraseUnits (.inr rfl) hrem ((eraseFault_eq_none hnone).resolve_left hrem)⟩
  case getDevices =>
    exact decides_raiseOr (f := fun t' => bufferFault t' t.arg0.toNat (recordFields * fieldBytes)) (fun _ => rfl)
      checksOperands_bufferFault fun hnone => decides_goto ⟨nofun, fun _ =>
        ⟨rfl, (by decide : 0 < recordFields), (bufferFault_eq_none hnone).resolve_left (by decide)⟩⟩
  case fvbRead =>
    let copy (t' : State) : State := raiseOr (bufferFault t' t.arg3.toNat t.arg2.toNat) (nextByte .fvbRead
      { snapshot t with addr := phys s t.arg0.toNat t.arg1.toNat, buf := t.arg3.toNat, rem := t.arg2.toNat }) t'
    refine decides_ite (c := fun t' => t'.totalBlocks.toNat ≤ t.arg0.toNat)
      (g := fun t' => if t'.blockSize.toNat < t.arg1.toNat + t.arg2.toNat then finish .invalidParameter t' else copy t')
      (fun _ => Iff.rfl) (fun _ => decides_finish trivial) fun hl => ?_
    refine decides_ite (c := fun t' => t'.blockSize.toNat < t.arg1.toNat + t.arg2.toNat) (fun _ => Iff.rfl)
      (fun _ => decides_finish trivial) fun ho => ?_
    exact decides_raiseOr (f := fun t' => bufferFault t' t.arg3.toNat t.arg2.toNat) (fun _ => rfl)
      checksOperands_bufferFault fun hnone => decides_nextByte trivial fun hrem => ⟨nofun, fun hblocks =>
        have ⟨hbuf, hhost⟩ := (bufferFault_eq_none hnone).resolve_left hrem
        sessionOk_copy (.inr rfl) hrem (inWindow_phys hblocks (Nat.not_le.mp hl) (Nat.not_lt.mp ho)) hbuf hhost⟩
  case fvbWrite =>
    let a := phys s t.arg0.toNat t.arg1.toNat
    let write (t' : State) : State := raiseOr (bufferFault t' t.arg3.toNat t.arg2.toNat) (nextChunk .fvbWrite
      { snapshot t with addr := a, buf := t.arg3.toNat, rem := t.arg2.toNat }) t'
    let aligned (t' : State) : State :=
      if a % wordBytes ≠ 0 ∨ t.arg2.toNat % wordBytes ≠ 0 then finish .invalidParameter t' else write t'
    refine decides_ite (c := fun t' => t'.totalBlocks.toNat ≤ t.arg0.toNat)
      (g := fun t' => if t'.blockSize.toNat < t.arg1.toNat + t.arg2.toNat then finish .invalidParameter t'
        else aligned t')
      (fun _ => Iff.rfl) (fun _ => decides_finish trivial) fun hl => ?_
    refine decides_ite (c := fun t' => t'.blockSize.toNat < t.arg1.toNat + t.arg2.toNat) (fun _ => Iff.rfl)
      (fun _ => decides_finish trivial) fun ho => ?_
    refine decides_ite (fun _ => Iff.rfl) (fun _ => decides_finish trivial) fun hparams => ?_
    obtain ⟨haddr, hlen⟩ : a % 4 = 0 ∧ t.arg2.toNat % 4 = 0 := by simpa [wordBytes] using hparams
    exact decides_raiseOr (f := fun t' => bufferFault t' t.arg3.toNat t.arg2.toNat) (fun _ => rfl)
      checksOperands_bufferFault fun hnone => decides_nextChunk trivial fun _ => ⟨nofun, fun hblocks =>
        sessionOk_write (.inr (.inr rfl)) nofun haddr hlen
          (inWindow_phys hblocks (Nat.not_le.mp hl) (Nat.not_lt.mp ho)) (bufferFault_eq_none hnone)⟩
  case eraseBlocks =>
    exact decides_nextPair checksOperands_listWordFault fun hnone => ⟨nofun, fun _ =>
      sessionOk_eraseBlocks_list hnone⟩

end Sys2Proof.Proofs
end

section
/-! PROOFS. What one move of the environment or one step of the machine can do (00_scope.md R9, R21, 60_exceptions.md
R351), said once, apart from the model's own fields. -/

namespace Sys2Proof.Proofs

open Sys2Proof Sys2Proof.Machine

/-! ### Acts -/

/-- The platform with the three causes of a failed INIT set (R395). -/
def withCauses (present capabilityPresent resourcesOk : Bool) (p : Platform) : Platform :=
  { p with cfg := { p.cfg with
      present := present, capabilityPresent := capabilityPresent, resourcesOk := resourcesOk } }

/-- What a move can do to the state: `writes r v` says that the move is the host's write of `v` to register `r`, `reset`
that it is a reset. -/
inductive Act (writes : Reg → Word → Prop) (reset : Prop) (s : State) : State → Prop where
  | nothing : Act writes reset s s
  | hostFault (r : FaultReason) (hr : r = .hostAccess ∨ r = .busy) (hfault : s.fault = false) :
    Act writes reset s (hostFault r s)
  | halted (i : Instr) (v : Word) (hwrite : writes .cmd v) (hdecode : decode v = .ok i) (hfault : s.fault = false)
    (hbusy : s.busy = false) (hhalted : s.halted = true) :
    Act writes reset s { s with cmd := encode i, opcount := 0, resultCode := .unrecoverable }
  | gated (i : Instr) (v : Word) (r : FaultReason) (hwrite : writes .cmd v) (hdecode : decode v = .ok i)
    (hfault : s.fault = false) (hbusy : s.busy = false) (hlife : lifecycleFault i s.lstate = some r) :
    Act writes reset s (raise r { s with cmd := encode i })
  | accepted (i : Instr) (v : Word) (u : State) (n : Decision) (hwrite : writes .cmd v) (hdecode : decode v = .ok i)
    (haccepting : Accepting i s) (hloads : Loads i (snapshot s) (acceptedState i s) u) (hallows : StartAllows i u n) :
    Act writes reset s (n.apply u)
  | illegal (v : Word) (hwrite : writes .cmd v) (hfault : s.fault = false) (hbusy : s.busy = false) :
    Act writes reset s (raise .illegalOp { s with cmd := (opField v).setWidth 64 })
  | argument (n : Nat) (v : Word) (hn : n < 4) (hwrite : writes (argReg n) v) (hfault : s.fault = false)
    (hbusy : s.busy = false) : Act writes reset s (withArg n (s.platform.width.trunc v) s)
  | store (a : Nat) (b : Byte) (ha : a < s.platform.limit) :
    Act writes reset s { s with mem := writeByte s.mem a b }
  | microStep (d : Draw) : Act writes reset s (microStep d s)
  | complete (k : Nat) (success : Bool) : Act writes reset s (chipComplete k success s)
  | platformChange (present capabilityPresent resourcesOk : Bool) (huninit : s.lstate = .uninit) :
    Act writes reset s { s with platform := withCauses present capabilityPresent resourcesOk s.platform }
  | blockReset (hreset : reset) : Act writes reset s (blockReset s)
  | powerCycle (cells : List Host.Cell) (hreset : reset) : Act writes reset s (powerCycle cells s)

/-- One of the acts leads from `s` to `t`, apart from the model's own fields. -/
def Acts (writes : Reg → Word → Prop) (reset : Prop) (s t : State) : Prop :=
  ∃ (m : Own) (u : State), t = m.set u ∧ Act writes reset s u

/-! ### Commands -/

/-- Everything a command written to CMD can do, in the order of R351. -/
theorem exec_acts {i : Instr} {v : Word} {writes : Reg → Word → Prop} {reset : Prop} {m : Own} {s t : State}
    (hexec : exec i (m.set s) = .next t) (hwrite : writes .cmd v) (hdecode : decode v = .ok i) :
    Acts writes reset s t := by
  rw [exec_eq_command] at hexec
  obtain ⟨hwf, rfl⟩ := command_next hexec
  rcases accept_cases i (startOf i) (m.set s) with
    ⟨-, heq⟩ | ⟨hfault, -, heq⟩ | ⟨hfault, hbusy, hhalted, heq⟩ | ⟨hfault, hbusy, -, r, hlife, heq⟩ |
      ⟨hfault, hbusy, hhalted, hlife, heq⟩ <;> rw [heq]
  · exact ⟨m, s, rfl, .nothing⟩
  · exact ⟨m, _, rfl, .hostFault .busy (.inr rfl) hfault⟩
  · exact ⟨m, _, rfl, .halted i v hwrite hdecode hfault hbusy hhalted⟩
  · exact ⟨m, _, rfl, .gated i v r hwrite hdecode hfault hbusy hlife⟩
  · obtain ⟨u, hloads, n, hallows, hstart⟩ := startOf_decides i s (acceptedState i s)
    exact ⟨m, n.apply u, (hstart m).trans (n.apply_set m u),
      .accepted i v u n hwrite hdecode ⟨hwf, hfault, hbusy, hhalted, hlife⟩ hloads hallows⟩

/-! ### Register accesses -/

theorem wrongAccess_acts {writes : Reg → Word → Prop} {reset : Prop} (s : State) :
    Act writes reset s (wrongAccess s) := by
  unfold wrongAccess
  split
  · exact .nothing
  · next hfault => exact .hostFault .hostAccess (.inl rfl) (by simpa using hfault)

theorem writeArg_acts {writes : Reg → Word → Prop} {reset : Prop} {n : Nat} {v : Word} (hn : n < 4)
    (hwrite : writes (argReg n) v) (s : State) : Act writes reset s (writeArg (withArg n) v s) := by
  unfold writeArg
  split
  · exact .nothing
  · next hfault =>
    split
    · exact .hostFault .busy (.inr rfl) (by simpa using hfault)
    · next hbusy => exact .argument n v hn hwrite (by simpa using hfault) (by simpa using hbusy)

theorem rejectOpcode_acts {writes : Reg → Word → Prop} {reset : Prop} {v : Word} (hwrite : writes .cmd v) (s : State) :
    Act writes reset s (rejectOpcode v s) := by
  unfold rejectOpcode
  split
  · exact .nothing
  · next hfault =>
    split
    · exact .hostFault .busy (.inr rfl) (by simpa using hfault)
    · next hbusy => exact .illegal v hwrite (by simpa using hfault) (by simpa using hbusy)

/-- None of the three host accesses looks at the model's own fields. -/
theorem wrongAccess_set (m : Own) (s : State) : wrongAccess (m.set s) = m.set (wrongAccess s) := by
  simp only [wrongAccess, apply_ite m.set]
  rfl

theorem writeArg_set (n : Nat) (v : Word) (m : Own) (s : State) :
    writeArg (withArg n) v (m.set s) = m.set (writeArg (withArg n) v s) := by
  simp only [writeArg, apply_ite m.set]
  rfl

theorem rejectOpcode_set (v : Word) (m : Own) (s : State) : rejectOpcode v (m.set s) = m.set (rejectOpcode v s) := by
  simp only [rejectOpcode, apply_ite m.set]
  rfl

theorem writeReg_acts {r : Reg} {v : Word} {writes : Reg → Word → Prop} {reset : Prop} {m : Own} {s t : State}
    (h : writeReg r v (m.set s) = .next t) (hwrite : writes r v) : Acts writes reset s t := by
  have argument (n : Nat) (hn : n < 4) (hr : r = argReg n) : Acts writes reset s t := by
    subst hr
    rw [writeReg_argReg hn, writeArg_set] at h
    cases h
    exact ⟨m, _, rfl, writeArg_acts hn hwrite s⟩
  cases r
  case cmd =>
    simp only [writeReg, writeCmd] at h
    split at h
    · next i hdecode => exact exec_acts h hwrite hdecode
    · cases h
      exact ⟨m, _, rejectOpcode_set v m s, rejectOpcode_acts hwrite s⟩
  case arg0 => exact argument 0 (by decide) rfl
  case arg1 => exact argument 1 (by decide) rfl
  case arg2 => exact argument 2 (by decide) rfl
  case arg3 => exact argument 3 (by decide) rfl
  all_goals
    cases h
    exact ⟨m, s, rfl, .nothing⟩

/-! ### The block's own moves -/

theorem autonomous_acts {writes : Reg → Word → Prop} {reset : Prop} (m : Own) (s : State) :
    Acts writes reset s (autonomous (m.set s)) := by
  rcases autonomous_cases (m.set s) with h | ⟨k, b, -, h⟩ | ⟨d, h⟩ <;> rw [h]
  · exact ⟨m, s, rfl, .nothing⟩
  · exact ⟨{ m with draws := m.draws + 1 }, _, rfl, .complete k b⟩
  · exact ⟨{ m with draws := m.draws + 1 }, _, microStep_set d { m with draws := m.draws + 1 } s, .microStep d⟩

theorem awaitIdle_acts {writes : Reg → Word → Prop} {reset : Prop} (ds : List Draw) (m : Own) (s : State) :
    Acts writes reset s (awaitIdle ds (m.set s)) := by
  rcases awaitIdle_cases ds (m.set s) with ⟨-, h⟩ | ⟨-, t, es, h, ht⟩ <;> rw [h]
  · exact ⟨{ m with readData := statusWord (m.set s) }, s, rfl, .nothing⟩
  · obtain ⟨m', u, rfl, hact⟩ : Acts writes reset s t := by
      rcases ht with rfl | ⟨d, rfl⟩
      · exact autonomous_acts m s
      · exact ⟨m, _, microStep_set d m s, .microStep d⟩
    exact ⟨{ m' with inputs := .awaitIdle es :: m'.inputs }, u, rfl, hact⟩

/-! ### Every move -/

/-- Everything a move of the environment can do. -/
theorem move_acts {e : Input} {m : Own} {s t : State} (h : move e (m.set s) = .next t) :
    Acts (fun r v => e = .hostWrite (s.platform.blockBase + regOffset r) 8 v) (e.isReset = true) s t := by
  cases e with
  | hostWrite addr width v =>
    rcases hostWrite_cases h with ⟨r, rfl, rfl, hwrite⟩ | rfl
    · exact writeReg_acts hwrite rfl
    · exact ⟨m, _, wrongAccess_set m s, wrongAccess_acts s⟩
  | hostRead addr width =>
    simp only [move, hostRead] at h
    split at h
    · cases h
    · split at h <;> cases h
      · exact ⟨{ m with readData := readReg (m.set s) _ }, s, rfl, .nothing⟩
      · rw [wrongAccess_set]
        exact ⟨{ m with readData := wrongReadData (m.set s), draws := m.draws + 1 }, wrongAccess s, rfl,
          wrongAccess_acts s⟩
  | awaitIdle ds =>
    cases h
    exact awaitIdle_acts ds m s
  | hostWindowRead a d =>
    simp only [move, hostWindowRead] at h
    split at h
    · cases h
    · split at h
      · cases h
        exact ⟨{ m with readData := _ }, s, rfl, .nothing⟩
      · split at h <;> cases h
        exact ⟨{ m with readData := _ }, s, rfl, .nothing⟩
  | hostStore a b =>
    simp only [move, hostStore] at h
    split at h <;> cases h
    next ha => exact ⟨m, _, rfl, .store a b ha⟩
  | sequencer d =>
    cases h
    exact ⟨m, _, microStep_set d m s, .microStep d⟩
  | complete k success =>
    cases h
    exact ⟨m, _, rfl, .complete k success⟩
  | blockReset =>
    cases h
    exact ⟨m, _, rfl, .blockReset rfl⟩
  | powerCycle cells =>
    cases h
    exact ⟨m, _, rfl, .powerCycle cells rfl⟩
  | platformChange p c r =>
    cases h
    by_cases huninit : s.lstate = .uninit
    · exact ⟨m, { s with platform := withCauses p c r s.platform }, if_pos huninit, .platformChange p c r huninit⟩
    · exact ⟨m, s, if_neg huninit, .nothing⟩

/-! ### Every step -/

/-- The next move of the script is the host's write of `v` to register `r`. -/
def writesNext (s : State) (r : Reg) (v : Word) : Prop :=
  ∃ rest, s.inputs = .hostWrite (s.platform.blockBase + regOffset r) 8 v :: rest

theorem Act.imp {writes writes' : Reg → Word → Prop} {reset reset' : Prop} {s t : State}
    (hwrites : ∀ r v, writes r v → writes' r v) (hreset : reset → reset') (h : Act writes reset s t) :
    Act writes' reset' s t := by
  cases h with
  | nothing => exact .nothing
  | hostFault r hr hfault => exact .hostFault r hr hfault
  | halted i v hwrite hdecode hfault hbusy hhalted =>
    exact .halted i v (hwrites _ _ hwrite) hdecode hfault hbusy hhalted
  | gated i v r hwrite hdecode hfault hbusy hlife =>
    exact .gated i v r (hwrites _ _ hwrite) hdecode hfault hbusy hlife
  | accepted i v u n hwrite hdecode haccepting hloads hallows =>
    exact .accepted i v u n (hwrites _ _ hwrite) hdecode haccepting hloads hallows
  | illegal v hwrite hfault hbusy => exact .illegal v (hwrites _ _ hwrite) hfault hbusy
  | argument n v hn hwrite hfault hbusy => exact .argument n v hn (hwrites _ _ hwrite) hfault hbusy
  | store a b ha => exact .store a b ha
  | microStep d => exact .microStep d
  | complete k success => exact .complete k success
  | platformChange p c r huninit => exact .platformChange p c r huninit
  | blockReset h => exact .blockReset (hreset h)
  | powerCycle cells h => exact .powerCycle cells (hreset h)

/-- Everything a step can do: the block's own move when the script is empty, otherwise its first input's. -/
theorem step_acts {s t : State} (hstep : step s = .next t) :
    s.platform.WF ∧ Acts (writesNext s) (resetNext s = true) s t := by
  obtain ⟨hwf, ⟨-, rfl⟩ | ⟨e, rest, hcons, hmove⟩⟩ := step_cases hstep
  · exact ⟨hwf, autonomous_acts (Own.get s) s⟩
  · obtain ⟨m, u, rfl, hact⟩ := move_acts (m := { Own.get s with inputs := rest }) (s := s) hmove
    exact ⟨hwf, m, u, rfl, hact.imp (fun r v he => ⟨rest, hcons.trans (congrArg (· :: rest) he)⟩)
      (resetNext_of_cons hcons).trans⟩

end Sys2Proof.Proofs
end

section
/-! PROOFS. The call of a micro-step: what it leaves alone (20_memory.md, 30_encoding.md R150). -/

namespace Sys2Proof.Proofs

open Sys2Proof Sys2Proof.Machine

/-- The registers and the sequencer that only straight-line code changes (R354, R357, R360). -/
structure Untouched (s t : State) : Prop where
  seq : t.seq = s.seq
  busy : t.busy = s.busy
  halted : t.halted = s.halted
  fault : t.fault = s.fault
  resultCode : t.resultCode = s.resultCode
  faultReason : t.faultReason = s.faultReason
  result0 : t.result0 = s.result0
  result1 : t.result1 = s.result1
  retryCount : t.retryCount = s.retryCount

theorem untouched_emitFlush (d : Draw) (s : State) : Untouched s (emitFlush d s) := by
  simp only [emitFlush]
  split <;> constructor <;> rfl

theorem untouched_emitLatch (b : Nat) (d : Draw) (s : State) : Untouched s (emitLatch b d s) := by
  simp only [emitLatch]
  split <;> constructor <;> rfl

theorem callAt_untouched (k : Pos) (ses : Session) (d : Draw) (s : State) : Untouched s (callAt k ses d s) := by
  cases k
  case ppFlush => exact untouched_emitFlush d s
  case esLatch => exact untouched_emitLatch ses.addr d s
  all_goals constructor <;> rfl

theorem callAt_kept (k : Pos) (ses : Session) (d : Draw) (s : State) : Kept s (callAt k ses d s) := by
  cases k
  case ppFlush => exact kept_emitFlush d s
  case esLatch => exact kept_emitLatch ses.addr d s
  all_goals constructor <;> rfl

/-! ### Memory -/

theorem emitFlush_mem (d : Draw) (s : State) : (emitFlush d s).mem = s.mem := by
  simp only [emitFlush]
  split <;> rfl

theorem emitLatch_mem (b : Nat) (d : Draw) (s : State) : (emitLatch b d s).mem = s.mem := by
  simp only [emitLatch]
  split <;> rfl

/-- Only the store of a copied byte and that of a record field write host memory (R204, R230). -/
theorem callAt_mem {k : Pos} (hcopy : k ≠ .memWrite) (hrecord : k ≠ .record) (ses : Session) (d : Draw) (s : State) :
    (callAt k ses d s).mem = s.mem := by
  cases k
  case memWrite => exact absurd rfl hcopy
  case record => exact absurd rfl hrecord
  case ppFlush => exact emitFlush_mem d s
  case esLatch => exact emitLatch_mem ses.addr d s
  all_goals rfl

/-! ### The chip -/

/-- A FLUSH answered OK commits the page; no other one changes more than the flag (R97, R100). -/
theorem emitFlush_chip (d : Draw) (s : State) : (emitFlush d s).chip =
    if d.ok then commitPage s.devBase.toNat s.chip else { s.chip with undef := true } := by
  simp only [emitFlush]
  cases hok : d.ok <;> simp

/-- A latch answered OK commits the erase; no other one changes more than the flag (R99, R100). -/
theorem emitLatch_chip (b : Nat) (d : Draw) (s : State) : (emitLatch b d s).chip =
    if d.ok then commitErase s.platform b s.chip else { s.chip with undef := true } := by
  simp only [emitLatch]
  cases hok : d.ok <;> simp

/-- Only a FLUSH and a latch, answered OK, change the array (R97, R99). -/
theorem callAt_flash {k : Pos} {d : Draw} (h : k ≠ .ppFlush ∧ k ≠ .esLatch ∨ d.ok = false) (ses : Session)
    (s : State) : (callAt k ses d s).chip.flash = s.chip.flash := by
  cases k
  case ppFlush =>
    have hok : d.ok = false := h.resolve_left fun hk => hk.1 rfl
    rw [callAt, emitFlush_chip, if_neg (by simp [hok])]
  case esLatch =>
    have hok : d.ok = false := h.resolve_left fun hk => hk.2 rfl
    rw [callAt, emitLatch_chip, if_neg (by simp [hok])]
  all_goals rfl

/-- Only a latch answered OK changes PENDING (R104). -/
theorem callAt_pending {k : Pos} {d : Draw} (h : k ≠ .esLatch ∨ d.ok = false) (ses : Session) (s : State) :
    (callAt k ses d s).chip.pending = s.chip.pending := by
  cases k
  case ppFlush =>
    rw [callAt, emitFlush_chip]
    split <;> rfl
  case esLatch =>
    have hok : d.ok = false := h.resolve_left fun hk => hk rfl
    rw [callAt, emitLatch_chip, if_neg (by simp [hok])]
  all_goals rfl

theorem commitErase_lastOk (p : Platform) (b : Nat) (c : Chip) : (commitErase p b c).lastOk = c.lastOk := by
  unfold commitErase
  split <;> rfl

/-- LAST_OK is the chip's own (R104). -/
theorem callAt_lastOk (k : Pos) (ses : Session) (d : Draw) (s : State) :
    (callAt k ses d s).chip.lastOk = s.chip.lastOk := by
  cases k
  case ppFlush =>
    rw [callAt, emitFlush_chip]
    split <;> rfl
  case esLatch =>
    rw [callAt, emitLatch_chip]
    split
    · exact commitErase_lastOk _ _ _
    · rfl
  all_goals rfl

theorem canonical_callAt {s : State} (hf : canonicalFlash s.chip.flash = true) (k : Pos) (ses : Session) (d : Draw) :
    canonicalFlash (callAt k ses d s).chip.flash = true := by
  cases k
  case ppFlush =>
    rw [callAt, emitFlush_chip]
    split
    · exact canonical_commitPage _ hf
    · exact hf
  case esLatch =>
    rw [callAt, emitLatch_chip]
    split
    · exact canonical_commitErase _ _ hf
    · exact hf
  all_goals exact hf

/-! ### OPCOUNT -/

/-- Only the first event of a sequence counts it (R42). -/
theorem callAt_opcount {k : Pos} (hprogram : k ≠ .ppCmd) (herase : k ≠ .esCmd) (ses : Session) (d : Draw) (s : State) :
    (callAt k ses d s).opcount = s.opcount := by
  cases k
  case ppCmd => exact absurd rfl hprogram
  case esCmd => exact absurd rfl herase
  case ppFlush =>
    simp only [callAt, emitFlush]
    split <;> rfl
  case esLatch =>
    simp only [callAt, emitLatch]
    split <;> rfl
  all_goals rfl

end Sys2Proof.Proofs
end

section
/-! PROOFS. The invariant of the machine (10_state.md, 20_memory.md, 60_exceptions.md): reset meets it and every step
keeps it. -/

namespace Sys2Proof.Proofs

open Sys2Proof Sys2Proof.Machine

/-! ### The parts of the invariant that do not speak of SEQ -/

/-- The invariant without the flags of STATUS and the session, which an accepted command changes before it decides. -/
structure BodyInv (s : State) : Prop where
  memory : MemoryInv s
  descriptor : DescriptorInv s
  width : WidthInv s
  history : HistoryInv s
  pending : PendingInv s

theorem bodyInv_of_inv {s : State} (h : Inv s) : BodyInv s :=
  ⟨h.memory, h.descriptor, h.width, h.history, h.pending⟩

/-- The invariant says nothing of the model's own fields. -/
theorem inv_set {s : State} (h : Inv s) (m : Own) : Inv (m.set s) :=
  ⟨h.memory, h.status, h.descriptor, h.width, h.history, h.pending, h.session⟩

/-! ### Widths -/

theorem two_pow_32_le_limit (p : Platform) : 2 ^ 32 ≤ p.limit := by
  unfold Platform.limit
  cases p.width <;> decide

theorem limit_pos (p : Platform) : 0 < p.limit := lt_of_lt_of_le (by decide) (two_pow_32_le_limit p)

/-- A `W`-bit register holds a `W`-bit value (R132). -/
theorem toNat_trunc_lt (w : Width) (v : Word) : (w.trunc v).toNat < w.limit := by
  cases w with
  | w64 => exact v.isLt
  | w32 =>
    show ((v.setWidth 32).setWidth 64).toNat < 2 ^ 32
    rw [BitVec.toNat_setWidth_of_le (by decide)]
    exact (v.setWidth 32).isLt

theorem toNat_setWidth_byte_lt (b : Byte) : (b.setWidth 64).toNat < 256 := by
  rw [BitVec.toNat_setWidth_of_le (by decide)]
  exact b.isLt

theorem toNat_encode_lt (i : Instr) : (encode i).toNat < 256 := toNat_setWidth_byte_lt (opcode i)

/-! ### Decisions -/

/-- The state is that of a running command that has not failed: what straight-line code starts from (R34, R37). -/
structure RunningInv (s : State) : Prop where
  busy : s.busy = true
  fault : s.fault = false
  reason : s.faultReason = .noFault
  halted : s.halted = false

/-- What the invariant asks of a decision. -/
def Decision.Fits (s : State) : Decision → Prop
  | .goto op k ses => s.lstate ≠ .uninit ∧ SessionOk s op k ses
  | .attempt n ses =>
    s.lstate ≠ .uninit ∧ n ≤ eraseRetry ∧ SessionOk s .eraseBlockRetry .esCmd { ses with attempt := n, idx := 0 }
  | .finish _ => True
  | .results r0 r1 => r0.toNat < s.platform.limit ∧ r1.toNat < s.platform.limit
  | .fatal => True
  | .raise r => r ≠ .noFault

theorem widthInv_apply {s : State} (h : WidthInv s) {n : Decision} (hn : n.Fits s) : WidthInv (n.apply s) := by
  obtain ⟨hcmd, harg0, harg1, harg2, harg3, hres0, hres1, hretry, hrest⟩ := h
  cases n with
  | goto op k ses => exact ⟨hcmd, harg0, harg1, harg2, harg3, hres0, hres1, hretry, hrest⟩
  | attempt k ses =>
    obtain ⟨-, hten, -⟩ := hn
    refine ⟨hcmd, harg0, harg1, harg2, harg3, hres0, hres1, ?_, hrest⟩
    show (wordOf k).toNat ≤ eraseRetry
    rw [BitVec.toNat_ofNat]
    exact (Nat.mod_le _ _).trans hten
  | finish c => exact ⟨hcmd, harg0, harg1, harg2, harg3, hres0, hres1, hretry, hrest⟩
  | results r0 r1 => exact ⟨hcmd, harg0, harg1, harg2, harg3, hn.1, hn.2, hretry, hrest⟩
  | fatal => exact ⟨hcmd, harg0, harg1, harg2, harg3, hres0, hres1, hretry, hrest⟩
  | raise r => exact ⟨hcmd, harg0, harg1, harg2, harg3, hres0, hres1, hretry, hrest⟩

theorem statusInv_apply {s : State} (h : RunningInv s) {n : Decision} (hn : n.Fits s) : StatusInv (n.apply s) := by
  obtain ⟨hbusy, hfault, hreason, hhalted⟩ := h
  cases n with
  | goto op k ses => simp [StatusInv, Decision.apply, hbusy, hfault, hreason, hhalted, hn.1]
  | attempt k ses => simp [StatusInv, Decision.apply, beginAttempt, hbusy, hfault, hreason, hhalted, hn.1]
  | finish c => simp [StatusInv, Decision.apply, hfault, hreason, hhalted]
  | results r0 r1 => simp [StatusInv, Decision.apply, finishResults, hfault, hreason, hhalted]
  | fatal => simp [StatusInv, Decision.apply, hfault, hreason]
  | raise r => simpa [StatusInv, Decision.apply, hhalted] using (show r ≠ .noFault from hn)

theorem sessionInv_apply {s : State} {n : Decision} (hn : n.Fits s) : SessionInv (n.apply s) := by
  cases n with
  | goto op k ses => exact hn
  | attempt k ses => exact ⟨hn.1, hn.2.2⟩
  | finish c | results r0 r1 | fatal | raise r => trivial

/-- A decision that fits keeps the invariant. -/
theorem inv_apply {s : State} (hbody : BodyInv s) (hrun : RunningInv s) {n : Decision} (hn : n.Fits s) :
    Inv (n.apply s) where
  memory := by cases n <;> exact hbody.memory
  status := statusInv_apply hrun hn
  descriptor := by cases n <;> exact hbody.descriptor
  width := widthInv_apply hbody.width hn
  history := by cases n <;> exact hbody.history
  pending := by cases n <;> exact hbody.pending
  session := sessionInv_apply hn

theorem ne_noFault_of_operandReason {r : FaultReason} (hr : r ∈ operandReasons) : r ≠ .noFault := by
  rintro rfl
  exact absurd hr (by decide)

/-- After INIT the blocks of the LBA range lie in the window (R51, R57). -/
theorem blocksInWindow_of_inv {s : State} (h : DescriptorInv s) (hl : s.lstate ≠ .uninit) : BlocksInWindow s := by
  obtain ⟨⟨hunit, -, -, ⟨hlo, hhi⟩, -, -⟩, -, hdev, hregion, -, hblock, -, -, htotal, -⟩ := h.1 hl
  have hsize := Nat.div_mul_le_self s.platform.cfg.regionSize.toNat s.platform.cfg.blockSize.toNat
  rw [BlocksInWindow, hdev, hregion, hblock, htotal]
  omega

/-! ### The call of a micro-step -/

theorem inWindow_kept {s t : State} (h : Kept s t) {a n : Nat} : inWindow t a n ↔ inWindow s a n := by
  rw [inWindow, inWindow, h.devBase, h.platform]

theorem sessionOk_kept {s t : State} (h : Kept s t) {op : Instr} {k : Pos} {ses : Session}
    (hses : SessionOk s op k ses) : SessionOk t op k ses := by
  cases k <;> simpa only [SessionOk, inWindow_kept h, h.platform, h.blockSize] using hses

/-- A copied byte is stored below `2^W` (R353). -/
theorem memoryInv_callAt {s : State} {op : Instr} {k : Pos} {ses : Session} (h : MemoryInv s)
    (hses : SessionOk s op k ses) (d : Draw) : MemoryInv (callAt k ses d s) := by
  obtain ⟨hwf, hbelow, hflash⟩ := h
  have hplatform := (callAt_kept k ses d s).platform
  refine ⟨?_, hplatform ▸ ?_, canonical_callAt hflash k ses d⟩
  · by_cases hcopy : k = .memWrite
    · subst hcopy
      exact wf_writeBytes _ _ _ hwf
    · by_cases hrecord : k = .record
      · subst hrecord
        exact wf_writeBytes _ _ _ hwf
      · rw [callAt_mem hcopy hrecord]
        exact hwf
  · by_cases hcopy : k = .memWrite
    · subst hcopy
      obtain ⟨-, hpos, -, hlimit, -⟩ := hses
      exact below_writeBytes _ _ hbelow (by omega)
    · by_cases hrecord : k = .record
      · subst hrecord
        obtain ⟨-, hidx, hlimit, -⟩ := hses
        simp only [recordFields, fieldBytes] at hidx hlimit
        exact below_writeBytes _ _ hbelow (by simp only [fieldBytes]; omega)
      · rw [callAt_mem hcopy hrecord]
        exact hbelow

theorem descriptorInv_kept {s t : State} (h : Kept s t) (hs : DescriptorInv s) : DescriptorInv t := by
  simpa only [DescriptorInv, h.platform, h.lstate, h.cmdset, h.ctrlBase, h.devBase, h.regionBase, h.regionSize,
    h.blockSize, h.tagLo, h.tagHi, h.totalBlocks, h.attr] using hs

theorem widthInv_callAt {s : State} (h : WidthInv s) (k : Pos) (ses : Session) (d : Draw) :
    WidthInv (callAt k ses d s) := by
  have hkept := callAt_kept k ses d s
  have hcall := callAt_untouched k ses d s
  obtain ⟨hcmd, harg0, harg1, harg2, harg3, hres0, hres1, hretry, hop, hrest⟩ := h
  have hop' : (callAt k ses d s).opcount.toNat < s.platform.limit := by
    by_cases hprogram : k = .ppCmd
    · subst hprogram
      exact toNat_trunc_lt _ _
    · by_cases herase : k = .esCmd
      · subst herase
        exact toNat_trunc_lt _ _
      · rwa [callAt_opcount hprogram herase]
  rw [WidthInv, hkept.platform, hkept.cmd, hkept.arg0, hkept.arg1, hkept.arg2, hkept.arg3, hcall.result0,
    hcall.result1, hcall.retryCount, hkept.cmdset, hkept.ctrlBase, hkept.devBase, hkept.regionBase, hkept.regionSize,
    hkept.blockSize, hkept.totalBlocks]
  exact ⟨hcmd, harg0, harg1, harg2, harg3, hres0, hres1, hretry, hop', hrest⟩

/-- One more record, numbered in order, keeps the history in order (R155). -/
theorem historyInv_append {s t : State} (h : HistoryInv s) (hkept : Kept s t) (hl : s.lstate ≠ .uninit) {e : BusEvent}
    (hhistory : t.history = s.history ++ [e]) (hn : e.n = s.history.length)
    (hdata : e.kind = .data → ∃ a, e.target = some a ∧ a % 4 = 0 ∧ inWindow s a 4) : HistoryInv t := by
  obtain ⟨hnumbers, -, hstores⟩ := h
  simp only [HistoryInv, hhistory, hkept.lstate, inWindow_kept hkept]
  refine ⟨?_, fun huninit => absurd huninit hl, fun f hf => ?_⟩
  · rw [List.map_append, hnumbers, List.length_append, List.length_singleton, List.range_succ, List.map_singleton, hn]
  · rcases List.mem_append.mp hf with hold | hnew
    · exact hstores f hold
    · rw [List.mem_singleton.mp hnew]
      exact hdata

theorem historyInv_kept {s t : State} (h : HistoryInv s) (hkept : Kept s t) (hhistory : t.history = s.history) :
    HistoryInv t := by
  simpa only [HistoryInv, hhistory, hkept.lstate, inWindow_kept hkept] using h

/-- A data word of a chunk in bounds lies in the window, on a multiple of 4 (R89, R91, R210). -/
theorem wordAddr_inWindow {s : State} {op : Instr} {ses : Session} (h : SessionOk s op .ppData ses) :
    wordAddr ses % 4 = 0 ∧ inWindow s (wordAddr ses) 4 := by
  obtain ⟨-, -, haddr, -, hwindow, -, -, hidx⟩ := h
  have hword := hidx (.inr rfl)
  simp only [chunkBytes, pageBytes] at hword
  simp only [wordAddr, wordBytes]
  omega

theorem historyInv_callAt {s : State} {op : Instr} {k : Pos} {ses : Session} (h : HistoryInv s)
    (hl : s.lstate ≠ .uninit) (hses : SessionOk s op k ses) (d : Draw) : HistoryInv (callAt k ses d s) := by
  have hkept := callAt_kept k ses d s
  cases k
  case winRead | ppFetch | listLba | listNum | memWrite | record => exact historyInv_kept h hkept rfl
  case ppCmd | esCmd => exact historyInv_append h hkept hl (emitCmd_history d s) rfl nofun
  case ppLoad | esLoad => exact historyInv_append h hkept hl (emitLoad_history d s) rfl nofun
  case ppWe | ppClear => exact historyInv_append h hkept hl (emitWcfg_history _ d s) rfl nofun
  case ppData => exact historyInv_append h hkept hl (emitData_history ..) rfl fun _ => ⟨_, rfl, wordAddr_inWindow hses⟩
  case ppFlush => exact historyInv_append h hkept hl (emitFlush_history d s) rfl nofun
  case esAddr => exact historyInv_append h hkept hl (emitAddr_history _ d s) rfl nofun
  case esLatch => exact historyInv_append h hkept hl (emitLatch_history _ d s) rfl nofun
  case poll => exact historyInv_append h hkept hl (emit_history ..) rfl nofun

/-- The unit of a window address lies in the window, which is a whole number of units (R57, R99). -/
theorem unitOf_inWindow {p : Platform} (hunit : p.UnitOk) (hsize : p.WindowSizeOk) {b : Nat}
    (hb : b < p.cfg.devBase.toNat + p.flashSize) : (unitOf p b + 1) * p.cfg.blockSize.toNat ≤ p.flashSize := by
  obtain ⟨hpos, hwhole⟩ := hsize
  obtain ⟨n, hn⟩ := Nat.dvd_of_mod_eq_zero hwhole
  rw [hn, Nat.mul_comm]
  refine Nat.mul_le_mul_left _ ?_
  rw [Nat.succ_le_iff, unitOf, Nat.div_lt_iff_lt_mul hunit, Nat.mul_comm, ← hn]
  omega

theorem pendingInv_commitErase {s : State} (h : PendingInv s) {b : Nat}
    (hb : (unitOf s.platform b + 1) * s.platform.cfg.blockSize.toNat ≤ s.platform.flashSize) :
    PendingInv { s with chip := commitErase s.platform b s.chip } := by
  obtain ⟨hrising, himmediate, hunits⟩ := h
  unfold commitErase
  cases hmode : s.platform.eraseCompletion with
  | immediate => exact ⟨hrising, himmediate, hunits⟩
  | async =>
    refine ⟨pairwise_insertUnit hrising, fun h => absurd (hmode.symm.trans h) nofun, fun u hu => ?_⟩
    rcases mem_insertUnit.mp hu with rfl | hold
    · exact hb
    · exact hunits u hold

theorem pendingInv_callAt {s : State} {op : Instr} {k : Pos} {ses : Session} (h : PendingInv s)
    (hdescriptor : DescriptorInv s) (hl : s.lstate ≠ .uninit) (hses : SessionOk s op k ses) (d : Draw) :
    PendingInv (callAt k ses d s) := by
  have hkept := callAt_kept k ses d s
  have hsame (hpending : (callAt k ses d s).chip.pending = s.chip.pending) : PendingInv (callAt k ses d s) := by
    rwa [PendingInv, hkept.platform, hpending]
  by_cases hlatch : k ≠ .esLatch ∨ d.ok = false
  · exact hsame (callAt_pending hlatch ses s)
  · obtain ⟨hk, hok⟩ := not_or.mp hlatch
    obtain rfl := not_not.mp hk
    obtain ⟨⟨hunit, hsize, -⟩, -, hdev, -⟩ := hdescriptor.1 hl
    obtain ⟨-, hpos, hwindow, -⟩ := hses
    have hcommit : (callAt .esLatch ses d s).chip = commitErase s.platform ses.addr s.chip := by
      rw [callAt, emitLatch_chip, if_pos (by simpa using hok)]
    have hb := unitOf_inWindow hunit hsize (b := ses.addr) (by rw [← hdev]; omega)
    have hcommitted := pendingInv_commitErase h hb
    rwa [PendingInv, hkept.platform, hcommit]

/-- The call of a micro-step keeps the invariant's body. -/
theorem bodyInv_callAt {s : State} {op : Instr} {k : Pos} {ses : Session} (h : BodyInv s) (hl : s.lstate ≠ .uninit)
    (hses : SessionOk s op k ses) (d : Draw) : BodyInv (callAt k ses d s) where
  memory := memoryInv_callAt h.memory hses d
  descriptor := descriptorInv_kept (callAt_kept k ses d s) h.descriptor
  width := widthInv_callAt h.width k ses d
  history := historyInv_callAt h.history hl hses d
  pending := pendingInv_callAt h.pending h.descriptor hl hses d

/-! ### Micro-steps -/

/-- A command is running, so the block has neither faulted nor halted (R34). -/
theorem runningInv_of_busy {s : State} (h : StatusInv s) (hbusy : s.busy = true) : RunningInv s := by
  obtain ⟨-, hreason, hfault, hhalted, -⟩ := h
  have hnot : s.fault ≠ true := fun hf => absurd (hbusy.symm.trans (hfault hf)) nofun
  have hrunning : s.halted ≠ true := fun hh => absurd (hbusy.symm.trans (hhalted hh).1) nofun
  exact ⟨hbusy, by simpa using hnot, not_not.mp fun hr => hnot (hreason.mpr hr), by simpa using hrunning⟩

theorem fits_of_stepAllows {s : State} {op : Instr} {k : Pos} {ses : Session} (hbody : BodyInv s)
    (hl : s.lstate ≠ .uninit) (hses : SessionOk s op k ses) {n : Decision} (hn : StepAllows op k ses s n) :
    n.Fits s := by
  have hblocks := blocksInWindow_of_inv hbody.descriptor hl
  cases n with
  | goto op' k' ses' => exact ⟨hl, hn hblocks hses⟩
  | attempt n ses' =>
    obtain ⟨-, hten, hnext⟩ := hn
    exact ⟨hl, hten, hnext hblocks hses⟩
  | finish c => trivial
  | results r0 r1 =>
    obtain ⟨-, rfl, rfl⟩ := hn
    obtain ⟨-, -, -, -, -, -, hres1, -⟩ := hbody.width
    exact ⟨lt_of_lt_of_le (by decide) (two_pow_32_le_limit s.platform), hres1⟩
  | fatal => trivial
  | raise r => exact ne_noFault_of_operandReason hn.1

theorem inv_microStep {s : State} (h : Inv s) (d : Draw) : Inv (microStep d s) := by
  cases hseq : s.seq with
  | idle =>
    rw [microStep, hseq]
    exact h
  | active op k ses =>
    obtain ⟨n, hn, heq⟩ := microStep_decides hseq d
    have hsession : s.lstate ≠ .uninit ∧ SessionOk s op k ses := by
      have hses := h.session
      rwa [SessionInv, hseq] at hses
    have hbusy : s.busy = true := h.status.1.mpr (by simp [hseq])
    obtain ⟨-, hfault, hreason, hhalted⟩ := runningInv_of_busy h.status hbusy
    have hkept := callAt_kept k ses d s
    have hcall := callAt_untouched k ses d s
    have hbody := bodyInv_callAt (bodyInv_of_inv h) hsession.1 hsession.2 d
    rw [heq]
    exact inv_apply hbody ⟨hcall.busy.trans hbusy, hcall.fault.trans hfault, hcall.faultReason.trans hreason,
      hcall.halted.trans hhalted⟩
      (fits_of_stepAllows hbody (hkept.lstate ▸ hsession.1) (sessionOk_kept hkept hsession.2) hn)

/-! ### Accepted commands -/

theorem bodyInv_acceptedState {s : State} (h : BodyInv s) (i : Instr) : BodyInv (acceptedState i s) := by
  obtain ⟨-, harg0, harg1, harg2, harg3, hres0, hres1, hretry, -, hrest⟩ := h.width
  exact ⟨h.memory, h.descriptor, ⟨toNat_encode_lt i, harg0, harg1, harg2, harg3, hres0, hres1, hretry,
    limit_pos s.platform, hrest⟩, h.history, h.pending⟩

/-- What INIT loads is what the invariant says of the block after INIT (R203, R57). -/
theorem bodyInv_loadConfiguration {s : State} (h : BodyInv s) (hwf : s.platform.WF)
    (hpresent : s.platform.cfg.present = true) (huninit : s.lstate = .uninit) : BodyInv (loadConfiguration s) := by
  obtain ⟨⟨hctrl, hdev, hregion, hsize, hblock, -⟩, hgeometry⟩ := hwf
  obtain ⟨hunit, hwindow, hend, hinside, haligned, hports⟩ := hgeometry hpresent
  obtain ⟨hcmd, harg0, harg1, harg2, harg3, hres0, hres1, hretry, hop, -⟩ := h.width
  obtain ⟨-, hempty, -⟩ := h.history
  have htotal : (loadConfiguration s).totalBlocks.toNat =
      s.platform.cfg.regionSize.toNat / s.platform.cfg.blockSize.toNat := by
    show (wordOf _).toNat = _
    rw [BitVec.toNat_ofNat]
    exact Nat.mod_eq_of_lt (lt_of_le_of_lt (Nat.div_le_self _ _) s.platform.cfg.regionSize.isLt)
  refine ⟨h.memory, ⟨fun _ => ⟨⟨hunit, hwindow, hend, hinside, haligned, hports⟩, rfl, rfl, rfl, rfl, rfl, rfl, rfl,
    htotal, hports⟩, fun _ => rfl, nofun⟩, ⟨hcmd, harg0, harg1, harg2, harg3, hres0, hres1, hretry, hop, ?_, hctrl,
    hdev, hregion, hsize, hblock, ?_⟩, ?_, h.pending⟩
  · show (cmdsetOf _ _ _).toNat < 2 ^ 24
    rw [cmdsetOf, BitVec.toNat_setWidth_of_le (by decide)]
    exact BitVec.isLt _
  · exact htotal ▸ lt_of_le_of_lt (Nat.div_le_self _ _) hsize
  · have hhistory : (loadConfiguration s).history = [] := hempty huninit
    rw [HistoryInv, hhistory]
    exact ⟨rfl, nofun, nofun⟩

theorem bodyInv_loads {i : Instr} {s t u : State} (h : BodyInv s) (hwf : s.platform.WF)
    (hlife : lifecycleFault i s.lstate = none) (harg : (snapshot t).a0.toNat < s.platform.limit)
    (hloads : Loads i (snapshot t) s u) : BodyInv u := by
  obtain ⟨hinit, hrelocate⟩ := lifecycleFault_none.mp hlife
  cases hloads with
  | nothing => exact h
  | configuration hi hpresent => exact bodyInv_loadConfiguration h hwf hpresent (hinit.mp hi)
  | attributes hi =>
    have hl : s.lstate ≠ .uninit := fun hl => absurd (hi.symm.trans (hinit.mpr hl)) nofun
    exact ⟨h.memory, ⟨h.descriptor.1, h.descriptor.2.1, fun huninit => absurd huninit hl⟩, h.width, h.history,
      h.pending⟩
  | controllerBase hi hfit =>
    have hready : s.lstate = .ready := hrelocate hi
    have hl : s.lstate ≠ .uninit := by simp [hready]
    obtain ⟨hgeometry, hset, hdev, hregion, hsize, hblock, hlo, hhi, htotal, -⟩ := h.descriptor.1 hl
    obtain ⟨hcmd, harg0, harg1, harg2, harg3, hres0, hres1, hretry, hop, hcmdset, -, hrest⟩ := h.width
    exact ⟨h.memory, ⟨fun _ => ⟨hgeometry, hset, hdev, hregion, hsize, hblock, hlo, hhi, htotal, hfit⟩, nofun, nofun⟩,
      ⟨hcmd, harg0, harg1, harg2, harg3, hres0, hres1, hretry, hop, hcmdset, harg, hrest⟩,
      ⟨h.history.1, nofun, h.history.2.2⟩, h.pending⟩

/-- Loading touches no flag of STATUS and leads out of UNINIT only. -/
theorem loads_runningInv {i : Instr} {ses : Session} {s u : State} (hloads : Loads i ses s u) (h : RunningInv s) :
    RunningInv u ∧ (s.lstate ≠ .uninit → u.lstate ≠ .uninit) := by
  obtain ⟨hbusy, hfault, hreason, hhalted⟩ := h
  cases hloads with
  | nothing => exact ⟨⟨hbusy, hfault, hreason, hhalted⟩, id⟩
  | configuration => exact ⟨⟨hbusy, hfault, hreason, hhalted⟩, fun _ => nofun⟩
  | attributes => exact ⟨⟨hbusy, hfault, hreason, hhalted⟩, id⟩
  | controllerBase => exact ⟨⟨hbusy, hfault, hreason, hhalted⟩, fun _ => nofun⟩

theorem fits_of_startAllows {i : Instr} {s : State} (hbody : BodyInv s) (hl : i ≠ .init → s.lstate ≠ .uninit)
    {n : Decision} (hn : StartAllows i s n) : n.Fits s := by
  cases n with
  | goto op k ses =>
    obtain ⟨hi, hses⟩ := hn
    exact ⟨hl hi, hses (blocksInWindow_of_inv hbody.descriptor (hl hi))⟩
  | attempt n ses =>
    obtain ⟨rfl, hten, hses⟩ := hn
    exact ⟨hl nofun, hten, hses⟩
  | finish c => trivial
  | results r0 r1 =>
    obtain ⟨-, -, -, -, -, -, hres1, -, -, -, -, -, hregion, -, hblock, htotal⟩ := hbody.width
    obtain ⟨hr0, hr1⟩ := hn
    refine ⟨?_, ?_⟩
    · rcases hr0 with hsmall | rfl | rfl
      · exact lt_of_lt_of_le hsmall (two_pow_32_le_limit s.platform)
      · exact hblock
      · exact hregion
    · rcases hr1 with rfl | hle
      · exact hres1
      · exact lt_of_le_of_lt hle htotal
  | fatal => exact hn.elim
  | raise r => exact ne_noFault_of_operandReason hn

theorem inv_accepted {i : Instr} {s u : State} (h : Inv s) (haccepting : Accepting i s)
    (hloads : Loads i (snapshot s) (acceptedState i s) u) {n : Decision} (hn : StartAllows i u n) :
    Inv (n.apply u) := by
  obtain ⟨hwf, hfault, -, hhalted, hlife⟩ := haccepting
  have hreason : s.faultReason = .noFault :=
    not_not.mp fun hr => absurd (hfault.symm.trans (h.status.2.1.mpr hr)) nofun
  have hbody : BodyInv u :=
    bodyInv_loads (bodyInv_acceptedState (bodyInv_of_inv h) i) hwf hlife h.width.2.1 hloads
  obtain ⟨hrun, hl⟩ := loads_runningInv hloads ⟨rfl, hfault, hreason, hhalted⟩
  exact inv_apply hbody hrun (fits_of_startAllows hbody
    (fun hi => hl fun huninit => hi ((lifecycleFault_none.mp hlife).1.mpr huninit)) hn)

/-! ### The other acts -/

/-- A raised fault leaves the block idle, faulted with its reason, and as halted as it was (R360). -/
theorem inv_raise {s : State} (hbody : BodyInv s) (hhalted : s.halted = true → s.resultCode = .unrecoverable)
    {r : FaultReason} (hr : r ≠ .noFault) : Inv (raise r s) where
  memory := hbody.memory
  status := by simpa [StatusInv, hr] using hhalted
  descriptor := hbody.descriptor
  width := hbody.width
  history := hbody.history
  pending := hbody.pending
  session := trivial

theorem bodyInv_cmd {s : State} (h : BodyInv s) {v : Word} (hv : v.toNat < 256) : BodyInv { s with cmd := v } := by
  obtain ⟨-, hrest⟩ := h.width
  exact ⟨h.memory, h.descriptor, ⟨hv, hrest⟩, h.history, h.pending⟩

theorem widthInv_withArg {s : State} (h : WidthInv s) (n : Nat) {v : Word} (hv : v.toNat < s.platform.limit) :
    WidthInv (withArg n v s) := by
  obtain ⟨hcmd, harg0, harg1, harg2, harg3, hrest⟩ := h
  have hone {c : Prop} [Decidable c] {w : Word} (hw : w.toNat < s.platform.limit) :
      (if c then v else w).toNat < s.platform.limit := by
    split
    · exact hv
    · exact hw
  exact ⟨hcmd, hone harg0, hone harg1, hone harg2, hone harg3, hrest⟩

/-- After a reset only the chip and host memory are left of the state before (R390, R393). -/
theorem inv_resetRegisters {s : State} (hmemory : MemoryInv s) (hpending : PendingInv s) : Inv (resetRegisters s) where
  memory := hmemory
  status := by simp [StatusInv, resetRegisters, State.reset]
  descriptor := ⟨fun h => absurd rfl h, nofun, fun _ => ⟨rfl, rfl, rfl, rfl, rfl, rfl, rfl, rfl, rfl, rfl⟩⟩
  width := by
    have hpos := limit_pos s.platform
    exact ⟨(by decide : 0 < 256), hpos, hpos, hpos, hpos, hpos, hpos, Nat.zero_le _, hpos, (by decide : 0 < 2 ^ 24),
      hpos, hpos, hpos, hpos, hpos, hpos⟩
  history := ⟨rfl, fun _ => rfl, nofun⟩
  pending := hpending
  session := trivial

theorem inv_powerCycle {s : State} (h : Inv s) (cells : List Host.Cell) : Inv (powerCycle cells s) := by
  obtain ⟨hwf, hbelow⟩ := memoryOf_wf_below s.platform.limit cells
  exact inv_resetRegisters (s := { s with
      chip := powerCycleChip s.platform (abandon s).chip, mem := memoryOf s.platform.limit cells })
    ⟨hwf, hbelow, canonical_powerCycleChip s.platform h.memory.2.2⟩ ⟨List.Pairwise.nil, fun _ => rfl, nofun⟩

theorem pendingInv_completeErase {s : State} (h : PendingInv s) (k : Nat) (success : Bool) :
    PendingInv (chipComplete k success s) := by
  obtain ⟨hrising, himmediate, hunits⟩ := h
  by_cases hk : k ∈ s.chip.pending
  · have hpending : (chipComplete k success s).chip.pending = s.chip.pending.filter (· ≠ k) := by
      rw [chipComplete_chip, completeErase, if_pos hk]
    rw [PendingInv, hpending]
    exact ⟨hrising.filter _, fun hmode => by rw [himmediate hmode]; rfl,
      fun u hu => hunits u (List.mem_of_mem_filter hu)⟩
  · have hchip : (chipComplete k success s).chip = s.chip := by rw [chipComplete_chip, completeErase, if_neg hk]
    rw [PendingInv, hchip]
    exact ⟨hrising, himmediate, hunits⟩

/-- Every act keeps the invariant. -/
theorem inv_act {writes : Reg → Word → Prop} {reset : Prop} {s t : State} (h : Inv s) (hact : Act writes reset s t) :
    Inv t := by
  have hbody := bodyInv_of_inv h
  have hhalted (hh : s.halted = true) : s.resultCode = .unrecoverable := (h.status.2.2.2.1 hh).2
  cases hact with
  | nothing => exact h
  | hostFault r hr hfault =>
    exact inv_raise (s := abandon s) ⟨h.memory, h.descriptor, h.width, h.history, h.pending⟩ hhalted
      (by rcases hr with rfl | rfl <;> nofun)
  | halted i v hwrite hdecode hfault hbusy hh =>
    obtain ⟨-, harg0, harg1, harg2, harg3, hres0, hres1, hretry, -, hrest⟩ := h.width
    obtain ⟨hseq, hreason, hfaulted, -, huninit⟩ := h.status
    exact ⟨h.memory, ⟨hseq, hreason, hfaulted, fun _ => ⟨hbusy, rfl⟩, huninit⟩, h.descriptor,
      ⟨toNat_encode_lt i, harg0, harg1, harg2, harg3, hres0, hres1, hretry, limit_pos s.platform, hrest⟩,
      h.history, h.pending, h.session⟩
  | gated i v r hwrite hdecode hfault hbusy hlife =>
    refine inv_raise (bodyInv_cmd hbody (toNat_encode_lt i)) hhalted ?_
    rcases lifecycleFault_eq_some.mp hlife with ⟨rfl, -⟩ | ⟨rfl, -⟩ | ⟨rfl, -⟩ <;> nofun
  | accepted i v u n hwrite hdecode haccepting hloads hallows => exact inv_accepted h haccepting hloads hallows
  | illegal v hwrite hfault hbusy =>
    exact inv_raise (bodyInv_cmd hbody (toNat_setWidth_byte_lt (opField v))) hhalted nofun
  | argument n v hn hwrite hfault hbusy =>
    exact ⟨h.memory, h.status, h.descriptor, widthInv_withArg h.width n (toNat_trunc_lt _ _), h.history, h.pending,
      h.session⟩
  | store a b ha =>
    obtain ⟨hwf, hbelow, hflash⟩ := h.memory
    exact ⟨⟨wf_writeByte a b hwf, below_writeByte b hbelow ha, hflash⟩, h.status, h.descriptor, h.width, h.history,
      h.pending, h.session⟩
  | microStep d => exact inv_microStep h d
  | complete k success =>
    obtain ⟨hwf, hbelow, hflash⟩ := h.memory
    exact ⟨⟨hwf, hbelow, canonical_completeErase s.platform k success hflash⟩, h.status, h.descriptor, h.width,
      h.history, pendingInv_completeErase h.pending k success, h.session⟩
  | platformChange p c r huninit =>
    exact ⟨h.memory, h.status, h.descriptor, h.width, h.history, h.pending, h.session⟩
  | blockReset => exact inv_resetRegisters (s := abandon s) h.memory h.pending
  | powerCycle cells => exact inv_powerCycle h cells

/-- Settles O60: a step is one of the acts, apart from fields that the invariant does not speak of. -/
theorem everyStepKeepsInvariant : Obligations.EveryStepKeepsInvariant := by
  intro s t h hstep
  obtain ⟨-, m, u, rfl, hact⟩ := step_acts hstep
  exact inv_set (inv_act h hact) m

/-- Settles O59: the reset state is its own reset, with EX's empty host memory, its array and no erase pending. -/
theorem resetMeetsInvariant : Obligations.ResetMeetsInvariant :=
  inv_resetRegisters (s := State.reset) ⟨rfl, rfl, rfl⟩ ⟨List.Pairwise.nil, fun _ => rfl, nofun⟩

end Sys2Proof.Proofs
end

section
/-! PROOFS. Who writes which register (10_state.md R30, R38 to R46), and what stays of a faulted block (60_exceptions.md
R360, R364). -/

namespace Sys2Proof.Proofs

open Sys2Proof Sys2Proof.Machine

/-! ### The registers a decision writes -/

theorem Decision.busy_of_resultCode_ne {n : Decision} {s : State} (h : (n.apply s).resultCode ≠ s.resultCode) :
    (n.apply s).busy = false := by
  cases n with
  | goto | attempt | raise => exact absurd rfl h
  | finish | results | fatal => rfl

/-- Results are written only by a command that ends with SUCCESS (R354, R355). -/
theorem Decision.success_of_result_ne {n : Decision} {s : State}
    (h : (n.apply s).result0 ≠ s.result0 ∨ (n.apply s).result1 ≠ s.result1) :
    (n.apply s).busy = false ∧ (n.apply s).resultCode = .success := by
  cases n with
  | results => exact ⟨rfl, rfl⟩
  | goto | attempt | finish | fatal | raise => exact absurd h (by rintro (h | h) <;> exact h rfl)

theorem Decision.attempt_of_retryCount_ne {n : Decision} {s : State} (h : (n.apply s).retryCount ≠ s.retryCount) :
    ∃ k ses, n = .attempt k ses := by
  cases n with
  | attempt k ses => exact ⟨k, ses, rfl⟩
  | goto | finish | results | fatal | raise => exact absurd rfl h

/-! ### The registers a command loads -/

/-- The registers that INIT alone loads (R44, R51, R53). -/
structure SameDescriptor (s t : State) : Prop where
  cmdset : t.cmdset = s.cmdset
  devBase : t.devBase = s.devBase
  regionBase : t.regionBase = s.regionBase
  regionSize : t.regionSize = s.regionSize
  blockSize : t.blockSize = s.blockSize
  tagLo : t.tagLo = s.tagLo
  tagHi : t.tagHi = s.tagHi
  totalBlocks : t.totalBlocks = s.totalBlocks

theorem sameDescriptor_of_kept {s t : State} (h : Kept s t) : SameDescriptor s t :=
  ⟨h.cmdset, h.devBase, h.regionBase, h.regionSize, h.blockSize, h.tagLo, h.tagHi, h.totalBlocks⟩

theorem SameDescriptor.trans {s t u : State} (h : SameDescriptor s t) (g : SameDescriptor t u) : SameDescriptor s u :=
  ⟨g.cmdset.trans h.cmdset, g.devBase.trans h.devBase, g.regionBase.trans h.regionBase,
    g.regionSize.trans h.regionSize, g.blockSize.trans h.blockSize, g.tagLo.trans h.tagLo, g.tagHi.trans h.tagHi,
    g.totalBlocks.trans h.totalBlocks⟩

/-- What loading leaves alone, whichever command loads; each field is `rfl` where no register of it is loaded. -/
structure LoadFrame (i : Instr) (s u : State) : Prop where
  platform : u.platform = s.platform := by rfl
  inputs : u.inputs = s.inputs := by rfl
  readData : u.readData = s.readData := by rfl
  cmd : u.cmd = s.cmd := by rfl
  arg0 : u.arg0 = s.arg0 := by rfl
  arg1 : u.arg1 = s.arg1 := by rfl
  arg2 : u.arg2 = s.arg2 := by rfl
  arg3 : u.arg3 = s.arg3 := by rfl
  halted : u.halted = s.halted := by rfl
  resultCode : u.resultCode = s.resultCode := by rfl
  result0 : u.result0 = s.result0 := by rfl
  result1 : u.result1 = s.result1 := by rfl
  retryCount : u.retryCount = s.retryCount := by rfl
  chip : u.chip = s.chip := by rfl
  mem : u.mem = s.mem := by rfl
  history : u.history = s.history := by rfl
  descriptor : i ≠ .init → SameDescriptor s u := by exact fun _ => ⟨rfl, rfl, rfl, rfl, rfl, rfl, rfl, rfl⟩
  controller : i ≠ .init ∧ i ≠ .relocate → u.ctrlBase = s.ctrlBase ∧ u.lstate = s.lstate := by exact fun _ => ⟨rfl, rfl⟩
  attr : i ≠ .init ∧ i ≠ .setAttributes → u.attr = s.attr := by exact fun _ => rfl

theorem loads_frame {i : Instr} {ses : Session} {s u : State} (h : Loads i ses s u) : LoadFrame i s u := by
  cases h with
  | nothing => exact {}
  | configuration hi =>
    exact { descriptor := (absurd hi ·), controller := fun h => absurd hi h.1, attr := fun h => absurd hi h.1 }
  | attributes hi => exact { attr := fun h => absurd hi h.2 }
  | controllerBase hi => exact { controller := fun h => absurd hi h.2 }

/-! ### Writers -/

/-- A command decoded from the word written to CMD. -/
def Commands (writes : Reg → Word → Prop) (i : Instr) : Prop := ∃ v, writes .cmd v ∧ decode v = .ok i

/-- What must have happened for each register to change (R30, the column "written by"); each field is `absurd rfl` for a
register that is kept. -/
structure WrittenByWriters (writes : Reg → Word → Prop) (s t : State) : Prop where
  cmd : t.cmd ≠ s.cmd → ∃ v, writes .cmd v := by exact (absurd rfl ·)
  arg0 : t.arg0 ≠ s.arg0 → ∃ v, writes .arg0 v := by exact (absurd rfl ·)
  arg1 : t.arg1 ≠ s.arg1 → ∃ v, writes .arg1 v := by exact (absurd rfl ·)
  arg2 : t.arg2 ≠ s.arg2 → ∃ v, writes .arg2 v := by exact (absurd rfl ·)
  arg3 : t.arg3 ≠ s.arg3 → ∃ v, writes .arg3 v := by exact (absurd rfl ·)
  resultCode : t.resultCode ≠ s.resultCode → t.busy = false := by exact (absurd rfl ·)
  result : t.result0 ≠ s.result0 ∨ t.result1 ≠ s.result1 → t.busy = false ∧ t.resultCode = .success := by
    exact fun h => absurd h (by rintro (h | h) <;> exact h rfl)
  retryCount : t.retryCount ≠ s.retryCount →
    (∃ k ses, s.seq = .active .eraseBlockRetry k ses) ∨ Commands writes .eraseBlockRetry := by exact (absurd rfl ·)
  opcount : t.opcount ≠ s.opcount → s.seq ≠ .idle ∨ ∃ i, Commands writes i := by exact (absurd rfl ·)
  descriptor : SameDescriptor s t ∨ Commands writes .init := by exact .inl ⟨rfl, rfl, rfl, rfl, rfl, rfl, rfl, rfl⟩
  ctrlBase : t.ctrlBase ≠ s.ctrlBase → Commands writes .init ∨ Commands writes .relocate := by exact (absurd rfl ·)
  attr : t.attr ≠ s.attr → Commands writes .init ∨ Commands writes .setAttributes := by exact (absurd rfl ·)

/-- The retry controller's positions are its own in a session in bounds (R261). -/
theorem op_of_attempt {s u : State} {op : Instr} {k : Pos} {ses ses' : Session} {n : Nat} (hses : SessionOk s op k ses)
    (hn : StepAllows op k ses u (.attempt n ses')) : op = .eraseBlockRetry := by
  rcases hn.1 with hop | rfl
  · exact hop
  · exact hses.1

theorem microStep_writers {writes : Reg → Word → Prop} {s : State} (h : SessionInv s) (d : Draw) :
    WrittenByWriters writes s (microStep d s) := by
  cases hseq : s.seq with
  | idle =>
    rw [microStep, hseq]
    exact {}
  | active op k ses =>
    obtain ⟨n, hn, heq⟩ := microStep_decides hseq d
    have hkept := kept_microStep d s
    have hcall := callAt_untouched k ses d s
    rw [SessionInv, hseq] at h
    exact {
      cmd := (absurd hkept.cmd ·)
      arg0 := (absurd hkept.arg0 ·)
      arg1 := (absurd hkept.arg1 ·)
      arg2 := (absurd hkept.arg2 ·)
      arg3 := (absurd hkept.arg3 ·)
      resultCode := by
        rw [heq, ← hcall.resultCode]
        exact Decision.busy_of_resultCode_ne
      result := by
        rw [heq, ← hcall.result0, ← hcall.result1]
        exact Decision.success_of_result_ne
      retryCount := by
        rw [heq, ← hcall.retryCount]
        intro hne
        obtain ⟨j, ses', rfl⟩ := Decision.attempt_of_retryCount_ne hne
        obtain rfl := op_of_attempt h.2 hn
        exact .inl ⟨k, ses, hseq⟩
      opcount := fun _ => .inl (by simp [hseq])
      descriptor := .inl (sameDescriptor_of_kept hkept)
      ctrlBase := (absurd hkept.ctrlBase ·)
      attr := (absurd hkept.attr ·) }

theorem accepted_writers {writes : Reg → Word → Prop} {i : Instr} {s u : State} {n : Decision}
    (hcommand : Commands writes i) (hloads : Loads i (snapshot s) (acceptedState i s) u) (hn : StartAllows i u n) :
    WrittenByWriters writes s (n.apply u) := by
  have hkept := n.kept_apply u
  have hframe := loads_frame hloads
  exact {
    cmd := fun _ => hcommand.imp fun _ h => h.1
    arg0 := (absurd (hkept.arg0.trans hframe.arg0) ·)
    arg1 := (absurd (hkept.arg1.trans hframe.arg1) ·)
    arg2 := (absurd (hkept.arg2.trans hframe.arg2) ·)
    arg3 := (absurd (hkept.arg3.trans hframe.arg3) ·)
    resultCode := fun hne => Decision.busy_of_resultCode_ne fun heq => hne (heq.trans hframe.resultCode)
    result := fun hne => Decision.success_of_result_ne
      (hne.imp (fun hne heq => hne (heq.trans hframe.result0)) fun hne heq => hne (heq.trans hframe.result1))
    retryCount := fun hne => by
      obtain ⟨j, ses, rfl⟩ := Decision.attempt_of_retryCount_ne fun heq => hne (heq.trans hframe.retryCount)
      exact .inr (hn.1 ▸ hcommand)
    opcount := fun _ => .inr ⟨i, hcommand⟩
    descriptor := by
      by_cases hi : i = .init
      · exact .inr (hi ▸ hcommand)
      · have hsame := (hframe.descriptor hi).trans (sameDescriptor_of_kept hkept)
        exact .inl { hsame with }
    ctrlBase := fun hne => by
      by_contra hneither
      obtain ⟨hinit, hrelocate⟩ := not_or.mp hneither
      have hi : i ≠ .init ∧ i ≠ .relocate := ⟨fun h => hinit (h ▸ hcommand), fun h => hrelocate (h ▸ hcommand)⟩
      exact hne (hkept.ctrlBase.trans (hframe.controller hi).1)
    attr := fun hne => by
      by_contra hneither
      obtain ⟨hinit, hset⟩ := not_or.mp hneither
      have hi : i ≠ .init ∧ i ≠ .setAttributes := ⟨fun h => hinit (h ▸ hcommand), fun h => hset (h ▸ hcommand)⟩
      exact hne (hkept.attr.trans (hframe.attr hi)) }

/-- A host write to an ARG register changes that one and no other (R134). -/
theorem withArg_writers {writes : Reg → Word → Prop} {n : Nat} {v : Word} (hwrite : writes (argReg n) v) (w : Word)
    (s : State) : WrittenByWriters writes s (withArg n w s) := by
  have only {j : Nat} {r : Reg} {x : Word} (hj : argReg j = r) (hne : (if n = j then w else x) ≠ x) :
      ∃ v, writes r v := by
    by_cases h : n = j
    · exact ⟨v, hj ▸ h ▸ hwrite⟩
    · exact absurd (if_neg h) hne
  exact {
    arg0 := only (j := 0) rfl
    arg1 := only (j := 1) rfl
    arg2 := only (j := 2) rfl
    arg3 := only (j := 3) rfl }

theorem act_writers {writes : Reg → Word → Prop} {s t : State} (h : SessionInv s) (hact : Act writes False s t) :
    WrittenByWriters writes s t := by
  cases hact with
  | nothing => exact {}
  | hostFault r hr hfault => exact {}
  | halted i v hwrite hdecode hfault hbusy hhalted =>
    exact {
      cmd := fun _ => ⟨v, hwrite⟩
      resultCode := fun _ => hbusy
      opcount := fun _ => .inr ⟨i, v, hwrite, hdecode⟩ }
  | gated i v r hwrite hdecode hfault hbusy hlife => exact { cmd := fun _ => ⟨v, hwrite⟩ }
  | accepted i v u n hwrite hdecode haccepting hloads hallows =>
    exact accepted_writers ⟨v, hwrite, hdecode⟩ hloads hallows
  | illegal v hwrite hfault hbusy => exact { cmd := fun _ => ⟨v, hwrite⟩ }
  | argument n v hn hwrite hfault hbusy => exact withArg_writers hwrite _ s
  | store a b ha => exact {}
  | microStep d => exact microStep_writers h d
  | complete k success => exact {}
  | platformChange p c r huninit => exact {}
  | blockReset hreset => exact hreset.elim
  | powerCycle cells hreset => exact hreset.elim

theorem commandNext_of_commands {s : State} {i : Instr} (h : Commands (writesNext s) i) : commandNext i s := by
  obtain ⟨v, ⟨rest, hrest⟩, hdecode⟩ := h
  exact ⟨v, rest, hrest, hdecode⟩

/-- Settles O56: a step is an act, and each act changes no register but those it writes. -/
theorem registersChangeOnlyByTheirWriters : Obligations.RegistersChangeOnlyByTheirWriters := by
  intro s t h hstep hreset
  obtain ⟨-, m, u, rfl, hact⟩ := step_acts hstep
  have hw : WrittenByWriters (writesNext s) s u :=
    act_writers h.session (hact.imp (fun _ _ h => h) fun hr => Bool.false_ne_true (hreset.symm.trans hr))
  have hcommand {i : Instr} := commandNext_of_commands (s := s) (i := i)
  refine ⟨hw.cmd, hw.arg0, hw.arg1, hw.arg2, hw.arg3, hw.resultCode, hw.result, fun hne => ?_, fun hne => ?_,
    fun hne => ?_, fun hne => ?_, fun hne => ?_⟩
  · exact (hw.retryCount hne).imp_right hcommand
  · exact (hw.opcount hne).imp_right fun ⟨i, hi⟩ => ⟨i, hcommand hi⟩
  · refine hw.descriptor.elim (fun hsame => absurd hne ?_) hcommand
    obtain ⟨h1, h2, h3, h4, h5, h6, h7, h8⟩ := hsame
    simp [Own.set, h1, h2, h3, h4, h5, h6, h7, h8]
  · exact (hw.ctrlBase hne).imp hcommand hcommand
  · exact (hw.attr hne).imp hcommand hcommand

/-! ### A faulted block -/

/-- What the host sees of the block's registers, the history and SEQ (R30, R47, R61). -/
structure SameToHost (s t : State) : Prop where
  registers (r : Reg) : readReg t r = readReg s r
  history : t.history = s.history
  seq : t.seq = s.seq
  fault : t.fault = s.fault
  reason : t.faultReason = s.faultReason

theorem sameToHost_refl (s : State) : SameToHost s s := ⟨fun _ => rfl, rfl, rfl, rfl, rfl⟩

/-- A faulted block takes no command, no operand and no micro-step (R360). -/
theorem act_of_faulted {writes : Reg → Word → Prop} {s t : State} (hfault : s.fault = true) (hstatus : StatusInv s)
    (hact : Act writes False s t) : SameToHost s t := by
  have hnot {P : Prop} (h : s.fault = false) : P := absurd (hfault.symm.trans h) nofun
  cases hact with
  | nothing => exact sameToHost_refl s
  | hostFault r hr h => exact hnot h
  | halted i v hwrite hdecode h => exact hnot h
  | gated i v r hwrite hdecode h => exact hnot h
  | accepted i v u n hwrite hdecode haccepting => exact hnot haccepting.2.1
  | illegal v hwrite h => exact hnot h
  | argument n v hn hwrite h => exact hnot h
  | store a b ha => exact ⟨fun r => by cases r <;> rfl, rfl, rfl, rfl, rfl⟩
  | microStep d =>
    obtain ⟨hseq, -, hidle, -⟩ := hstatus
    have hidle : s.seq = .idle := by
      by_contra hne
      exact absurd ((hseq.mpr hne).symm.trans (hidle hfault)) nofun
    rw [microStep, hidle]
    exact sameToHost_refl s
  | complete k success => exact ⟨fun r => by cases r <;> rfl, rfl, rfl, rfl, rfl⟩
  | platformChange p c r huninit => exact ⟨fun r => by cases r <;> rfl, rfl, rfl, rfl, rfl⟩
  | blockReset hreset => exact hreset.elim
  | powerCycle cells hreset => exact hreset.elim

theorem readReg_set (m : Own) (s : State) (r : Reg) : readReg (m.set s) r = readReg s r := by cases r <;> rfl

/-- Settles O12: FAULT is the first line of R351, and `act_of_faulted` covers every move. -/
theorem faultedBlockIsQuiescent : Obligations.FaultedBlockIsQuiescent := by
  intro s hfault
  refine ⟨fun i hwf => ?_, fun e t hstatus he hmove => ?_⟩
  · rw [exec_eq_command, command_eq hwf, accept, if_pos hfault]
  · obtain ⟨m, u, rfl, hact⟩ := move_acts (m := Own.get s) hmove
    obtain ⟨hregs, hhistory, hseq, -⟩ :=
      act_of_faulted hfault hstatus (hact.imp (fun _ _ h => h) fun hr => Bool.false_ne_true (he.symm.trans hr))
    exact ⟨List.map_congr_left fun r _ => (readReg_set m u r).trans (hregs r), hhistory, hseq⟩

/-- Settles O55: FAULT by `act_of_faulted`, HALTED by `step_halted`. -/
theorem onlyResetClearsFaultAndHalt : Obligations.OnlyResetClearsFaultAndHalt := by
  intro s t hstatus hstep hreset
  refine ⟨fun hfault => ?_, fun hhalted => step_halted hhalted hstep hreset⟩
  obtain ⟨-, m, u, rfl, hact⟩ := step_acts hstep
  obtain ⟨-, -, -, hsame, hreason⟩ :=
    act_of_faulted hfault hstatus (hact.imp (fun _ _ h => h) fun hr => Bool.false_ne_true (hreset.symm.trans hr))
  exact ⟨hsame.trans hfault, hreason⟩

end Sys2Proof.Proofs
end

section
/-! PROOFS. Wrong host accesses, window reads and commands on a busy block (30_encoding.md R132, 20_memory.md R94,
60_exceptions.md R352, R360). -/

namespace Sys2Proof.Proofs

open Sys2Proof Sys2Proof.Machine

/-! ### Wrong accesses -/

theorem regOffset_mod (r : Reg) : regOffset r % 8 = 0 := by cases r <;> rfl

/-- An access of a wrong width, alignment or offset reaches no register (R131, R132). -/
theorem accessedReg_eq_none {offset width : Nat} (h : width ≠ 8 ∨ offset % 8 ≠ 0 ∨ 0x0A0 ≤ offset) :
    accessedReg offset width = none := by
  cases hreg : accessedReg offset width with
  | none => rfl
  | some r =>
    obtain ⟨hwidth, hoffset⟩ := regOffset_of_accessedReg hreg
    have hlt := regOffset_lt r
    have hmod := regOffset_mod r
    omega

theorem registerOffset_of_lt {s : State} {offset : Nat} (h : s.platform.blockBase + offset < s.platform.limit) :
    registerOffset s (s.platform.blockBase + offset) = some offset := by
  rw [registerOffset, if_pos ⟨Nat.le_add_right _ _, h⟩, Nat.add_sub_cancel_left]

theorem registerOffset_of_le {s : State} {addr : Nat} (h : s.platform.limit ≤ addr) : registerOffset s addr = none :=
  if_neg fun hlt => Nat.not_lt.mpr h hlt.2

/-- Settles O8: the offset is one of no register, so the access is a wrong one; at `2^W` there is no offset. -/
theorem wrongHostAccessFaults : Obligations.WrongHostAccessFaults := by
  refine ⟨fun s offset width hlimit hwrong => ⟨fun v => ?_, ?_⟩, fun s addr width hlimit => ⟨fun v => ?_, ?_⟩⟩
  · simp only [move, hostWrite, registerOffset_of_lt hlimit, accessedReg_eq_none hwrong]
    rfl
  · refine ⟨{ wrongAccess s with readData := wrongReadData s, draws := s.draws + 1 }, wrongReadData s, ?_, ?_,
      fun hfault => if_pos hfault⟩
    · simp only [move, hostRead, registerOffset_of_lt hlimit, accessedReg_eq_none hwrong]
    · rfl
  · simp only [move, hostWrite, registerOffset_of_le hlimit]
  · simp only [move, hostRead, registerOffset_of_le hlimit]

/-! ### Window reads -/

/-- Settles O47: below `2^W`, after INIT and inside the window the read comes to its last branch. -/
theorem hostWindowReadSeesTheChip : Obligations.HostWindowReadSeesTheChip := by
  intro s a d hlimit hlstate hlo hhi
  rw [move, hostWindowRead, if_neg (Nat.not_le.mpr hlimit), if_neg hlstate, if_pos (.inr ⟨hlo, hhi⟩),
    ← BitVec.ofNat_toNat]
  rfl

/-! ### Commands on a busy block -/

/-- Settles O11: BUSY is the second line of R351, and `midSequence` holds inside a sequence. -/
theorem commandWhileBusyFaults : Obligations.CommandWhileBusyFaults := by
  intro s i hwf hfault hbusy
  refine ⟨midSequence s.seq, midSequence_eq_true_iff s.seq, ?_⟩
  rw [exec_eq_command, command_eq hwf, accept, if_neg (by simp [hfault]), if_pos hbusy]
  rfl

/-! ### Operands -/

theorem runMicro_edited (ds : List Draw) (e : UnreadEdit) (s : State) :
    runMicro ds (edited e s) = edited e (runMicro ds s) := by
  induction ds generalizing s with
  | nil => rfl
  | cons d ds ih => rw [runMicro_cons, microStep_edited, ih, runMicro_cons]

/-- Settles O58: new operands are an edit, and micro-steps commute with it. -/
theorem operandsAreReadOnceAtAcceptance : Obligations.OperandsAreReadOnceAtAcceptance := by
  intro s ds v0 v1 v2 v3
  exact runMicro_edited ds
    { arg0 := fun _ => v0, arg1 := fun _ => v1, arg2 := fun _ => v2, arg3 := fun _ => v3 } s

end Sys2Proof.Proofs
end

section
/-! PROOFS. The chip's own moves: the end of a pending erase, and a power cycle (20_memory.md R104, R109,
70_reset_and_hazards.md R394). -/

namespace Sys2Proof.Proofs

open Sys2Proof Sys2Proof.Machine

/-! ### Completions -/

/-- A completion of a pending unit (R104). -/
theorem completeErase_of_mem {p : Platform} {k : Nat} {success : Bool} {c : Chip} (hk : k ∈ c.pending) :
    completeErase p k success c =
      { c with
        flash := setUnit p k (if success = true ∧ c.undef = false then .erased else .undefined) c.flash
        pending := c.pending.filter (· ≠ k)
        lastOk := success } := by
  rw [completeErase, if_pos hk]
  cases success <;> cases c.undef <;> rfl

/-- Settles O50: `completeErase_of_mem`, and `condAt_setUnit` for the bytes of the unit. -/
theorem completeErasesOrUndefinesUnit : Obligations.CompleteErasesOrUndefinesUnit := by
  intro s k success hf hk
  refine ⟨_, ?_, canonical_setUnit hf s.platform k
    (if success = true ∧ s.chip.undef = false then .erased else .undefined), fun x => condAt_setUnit hf ..⟩
  rw [move, chipComplete, completeErase_of_mem hk]

/-! ### Power cycles -/

theorem powerCycle_chip (cells : List Host.Cell) (s : State) :
    (powerCycle cells s).chip = powerCycleChip s.platform (abandon s).chip := rfl

/-- A power cycle leaves the whole window UNDEFINED if the chip was, its pending units otherwise (R109). -/
theorem condAt_powerCycleChip {p : Platform} {c : Chip} (hf : canonicalFlash c.flash = true) {x : Nat}
    (hx : x < p.flashSize) :
    condAt (powerCycleChip p c).flash x =
      if c.undef = true ∨ ∃ k ∈ c.pending,
          k * p.cfg.blockSize.toNat ≤ x ∧ x < (k + 1) * p.cfg.blockSize.toNat then .undefined
      else condAt c.flash x := by
  simp only [powerCycleChip]
  by_cases hundef : c.undef = true
  · rw [if_pos hundef, condAt_setRange hf, if_pos ⟨Nat.zero_le _, hx⟩, if_pos (.inl hundef)]
  · rw [if_neg hundef, condAt_units hf]
    exact if_congr (or_iff_right hundef).symm rfl rfl

/-- Nothing is abandoned in an idle block. -/
theorem abandon_chip_of_idle {s : State} (hseq : s.seq = .idle) : (abandon s).chip = s.chip := by
  simp [abandon, hseq, midSequence]

/-- Settles O53: the registers are those of a block reset, the array is `condAt_powerCycleChip`. -/
theorem powerCycleUndefinesPendingUnits : Obligations.PowerCycleUndefinesPendingUnits := by
  intro s cells hseq hf
  have hread (r : Reg) : readReg (powerCycle cells s) r = 0 :=
    Eq.trans (by cases r <;> rfl) (readReg_blockReset s r)
  refine ⟨powerCycle cells s, rfl, map_readReg_allRegs_eq_zeros hread, rfl, rfl, rfl, rfl, rfl, fun x hx => ?_⟩
  rw [powerCycle_chip, abandon_chip_of_idle hseq]
  exact condAt_powerCycleChip hf hx

end Sys2Proof.Proofs
end

section
/-! PROOFS. The commands about ATTR and the faults of operand checks (42_facade.md R293, R294, 60_exceptions.md R353).
-/

namespace Sys2Proof.Proofs

open Sys2Proof Sys2Proof.Machine

/-! ### Attributes -/

/-- Settles O18: each pseudocode is one `finishResult`, after SET_ATTRIBUTES has loaded ATTR. -/
theorem attributesAreReturnedAndReplaced : Obligations.AttributesAreReturnedAndReplaced := by
  refine ⟨fun s hs => ?_, fun s hs => ?_⟩
  · refine (command_accepting hs startGetAttributes).trans ?_
    rw [show wordOf s.attr.toNat = s.attr.setWidth 64 from BitVec.ofNat_toNat 64 s.attr]
    exact congrArg _ (finishResult_acceptedState .getAttributes (s.attr.setWidth 64) s)
  · have hattr : s.arg0.extractLsb' 0 32 = BitVec.ofNat 32 s.arg0.toNat := extractLsb'_eq_of_div_mod (by omega)
    have hresult : (BitVec.ofNat 32 s.arg0.toNat).setWidth 64 = wordOf (s.arg0.toNat % 2 ^ 32) :=
      BitVec.eq_of_toNat_eq (by simp)
    refine (command_accepting hs startSetAttributes).trans ?_
    rw [← hresult, ← hattr]
    exact congrArg (fun t : State => Host.Outcome.next { t with attr := s.arg0.extractLsb' 0 32 })
      (finishResult_acceptedState .setAttributes ((s.arg0.extractLsb' 0 32).setWidth 64) s)

/-! ### The checks of R353 -/

/-- An accepted command whose pseudocode raises at once leaves CMD, OPCOUNT = 0 and its fault (R353, R360). -/
theorem command_faults {i : Instr} {s : State} (hs : Accepting i s) {start : Session → State → State}
    {r : FaultReason} (hstart : start (snapshot s) (acceptedState i s) = raise r (acceptedState i s)) :
    command i start s = .next (faultEnd i r s) := by
  rw [command_accepting hs, hstart, raise_acceptedState]

/-- The fault of a transfer that does not pass its checks: overflow, then window, then host memory (R353). -/
theorem transferFault_of_not_ok {s : State} {addr buf len : Nat} (hlen : len ≠ 0) (h : ¬ TransferOk s addr buf len) :
    transferFault s addr buf len = some
      (if s.platform.limit < addr + len ∨ s.platform.limit < buf + len then .overflow
        else if addr < s.devBase.toNat ∨ s.devBase.toNat + s.platform.flashSize < addr + len then .window
        else .hostMem) := by
  rw [transferFault, if_neg hlen]
  by_cases hlimit : s.platform.limit < addr + len ∨ s.platform.limit < buf + len
  · rw [if_pos hlimit, if_pos hlimit]
  · rw [if_neg hlimit, if_neg hlimit]
    by_cases hout : addr < s.devBase.toNat ∨ s.devBase.toNat + s.platform.flashSize < addr + len
    · have hwindow : ¬ inWindow s addr len := by clear h; omega
      rw [if_pos hwindow, if_pos hout]
    · have hwindow : inWindow s addr len := by clear h; omega
      have hhost : ¬ s.platform.hostOk buf len := fun hhost => h (.inr (by
        obtain ⟨haddr, hbuf⟩ := not_or.mp hlimit
        obtain ⟨hlo, hhi⟩ := not_or.mp hout
        exact ⟨Nat.not_lt.mp haddr, Nat.not_lt.mp hbuf, Nat.not_lt.mp hlo, Nat.not_lt.mp hhi, hhost⟩))
      rw [if_neg (not_not.mpr hwindow), if_pos hhost, if_neg hout]

/-- The fault of a host buffer that does not pass its checks: overflow, then host memory (R353). -/
theorem bufferFault_of_not_ok {s : State} {buf len : Nat} (h : ¬ BufferOk s buf len) :
    bufferFault s buf len = some (if s.platform.limit < buf + len then .overflow else .hostMem) := by
  obtain ⟨hlen, hrange⟩ := not_or.mp h
  rw [bufferFault, if_neg hlen]
  by_cases hlimit : s.platform.limit < buf + len
  · rw [if_pos hlimit, if_pos hlimit]
  · rw [if_neg hlimit, if_neg hlimit, if_pos fun hhost => hrange ⟨Nat.not_lt.mp hlimit, hhost⟩]

theorem width_bytes_pos (w : Width) : 0 < w.bytes := by cases w <;> decide

/-- A list word is checked as a buffer of its size (R288). -/
theorem listWordFault_eq_bufferFault (s : State) (a : Nat) :
    listWordFault s a = bufferFault s a s.platform.width.bytes := by
  rw [bufferFault, if_neg (Nat.pos_iff_ne_zero.mp (width_bytes_pos _)), listWordFault]

/-- Settles O23: the parameters pass, and `transferFault_of_not_ok` names the check that does not. -/
theorem transferChecksFaultInOrder : Obligations.TransferChecksFaultInOrder := by
  intro s i hi hs hlen hpage hwords hbad
  have hfault := transferFault_of_not_ok (s := acceptedState i s) hlen hbad
  simp only [List.mem_cons, List.not_mem_nil, or_false] at hi
  rcases hi with rfl | rfl | rfl
  · exact command_faults (start := startRead) hs (by simp only [startRead, snapshot, hfault]; rfl)
  · have hparams : ¬ (pageBytes < s.arg2.toNat ∨ s.arg2.toNat % wordBytes ≠ 0 ∨ s.arg0.toNat % wordBytes ≠ 0) := by
      have := hpage rfl
      have := hwords nofun
      simp only [pageBytes, wordBytes]
      omega
    exact command_faults (start := startWriteChunk) hs (by
      simp only [startWriteChunk, snapshot, if_neg hparams, hfault]; rfl)
  · have hparams : ¬ (s.arg0.toNat % wordBytes ≠ 0 ∨ s.arg2.toNat % wordBytes ≠ 0) := by
      have := hwords nofun
      simp only [wordBytes]
      omega
    exact command_faults (start := startWrite) hs (by simp only [startWrite, snapshot, if_neg hparams, hfault]; rfl)

/-- Settles O24: the parameters pass, and `bufferFault_of_not_ok` names the check that does not. -/
theorem hostRangeChecksFaultInOrder : Obligations.HostRangeChecksFaultInOrder := by
  refine ⟨fun s i hi hs hlba hblock hwords hbad => ?_, fun s hs hbad => ?_, fun s hs hbad => ?_⟩
  · have hfault := bufferFault_of_not_ok (s := acceptedState i s) hbad
    have hl : ¬ s.totalBlocks.toNat ≤ s.arg0.toNat := Nat.not_le.mpr hlba
    have hb : ¬ s.blockSize.toNat < s.arg1.toNat + s.arg2.toNat := Nat.not_lt.mpr hblock
    simp only [List.mem_cons, List.not_mem_nil, or_false] at hi
    rcases hi with rfl | rfl
    · exact command_faults (start := startFvbRead) hs (by
        simp only [startFvbRead, snapshot, acceptedState_totalBlocks, acceptedState_blockSize, if_neg hl, if_neg hb,
          hfault]
        rfl)
    · have hparams : ¬ (phys s s.arg0.toNat s.arg1.toNat % wordBytes ≠ 0 ∨ s.arg2.toNat % wordBytes ≠ 0) := by
        have := hwords rfl
        simp only [phys, wordBytes]
        omega
      refine command_faults (start := startFvbWrite) hs ?_
      simp only [startFvbWrite, snapshot, acceptedState_totalBlocks, acceptedState_blockSize, if_neg hl, if_neg hb,
        hfault]
      exact if_neg hparams
  · have hfault := bufferFault_of_not_ok (s := acceptedState .getDevices s) hbad
    refine command_faults (start := startGetDevices) hs ?_
    simp only [startGetDevices, snapshot, recordFields, fieldBytes, hfault]
    rfl
  · have hfault := bufferFault_of_not_ok (s := acceptedState .eraseBlocks s) hbad
    refine command_faults (start := startEraseBlocks) hs ?_
    simp only [startEraseBlocks, nextPair, snapshot, listWordFault_eq_bufferFault, acceptedState_platform] at hfault ⊢
    rw [hfault]
    rfl

/-- The pseudocode of ERASE past its parameter check (R225). -/
theorem startErase_of_units {s : State} (hunits : s.arg1.toNat % s.blockSize.toNat = 0) :
    startErase (snapshot s) (acceptedState .erase s) =
      raiseOr (eraseFault (acceptedState .erase s) s.arg0.toNat s.arg1.toNat (s.arg1.toNat / s.blockSize.toNat)
          s.blockSize.toNat)
        (nextUnit { snapshot s with addr := s.arg0.toNat, rem := s.arg1.toNat / s.blockSize.toNat })
        (acceptedState .erase s) := if_neg (not_not.mpr hunits)

/-- Settles O25: an address outside the window, and the checks of ERASE in their order. -/
theorem eraseChecksFaultInOrder : Obligations.EraseChecksFaultInOrder := by
  refine ⟨fun s i hi hs hout => ?_, fun s hs hunits hn => ⟨fun hlimit => ?_, fun hlimit hout => ?_⟩⟩
  · have hwindow : ¬ inWindow s s.arg0.toNat 1 := by omega
    have hfault : eraseAddressFault (acceptedState i s) s.arg0.toNat = some .window := if_pos hwindow
    simp only [List.mem_cons, List.not_mem_nil, or_false] at hi
    rcases hi with rfl | rfl
    · exact command_faults (start := startEraseSingleBlock) hs (by
        simp only [startEraseSingleBlock, snapshot, hfault]; rfl)
    · exact command_faults (start := startEraseBlockRetry) hs (by
        simp only [startEraseBlockRetry, snapshot, hfault]; rfl)
  · have hfault : eraseFault (acceptedState .erase s) s.arg0.toNat s.arg1.toNat (s.arg1.toNat / s.blockSize.toNat)
        s.blockSize.toNat = some .overflow := (if_neg hn).trans (if_pos hlimit)
    exact command_faults (start := startErase) hs (by rw [startErase_of_units hunits, hfault]; rfl)
  · have hwindow : ¬ inWindow s s.arg0.toNat ((s.arg1.toNat / s.blockSize.toNat - 1) * s.blockSize.toNat + 1) := by
      omega
    have hfault : eraseFault (acceptedState .erase s) s.arg0.toNat s.arg1.toNat (s.arg1.toNat / s.blockSize.toNat)
        s.blockSize.toNat = some .window := (if_neg hn).trans ((if_neg (Nat.not_lt.mpr hlimit)).trans (if_pos hwindow))
    exact command_faults (start := startErase) hs (by rw [startErase_of_units hunits, hfault]; rfl)

end Sys2Proof.Proofs
end

section
/-! PROOFS. Frames: what a command write and a micro-step leave alone (00_scope.md R21, 20_memory.md R84, R97, R99,
R104, 60_exceptions.md R351). -/

namespace Sys2Proof.Proofs

open Sys2Proof Sys2Proof.Machine

/-! ### Command writes -/

/-- What the write of command `i` to CMD leaves alone (R351, R353); each field is `rfl` where the command's end does not
touch it. -/
structure CommandFrame (i : Instr) (s t : State) : Prop where
  history : t.history = s.history := by rfl
  mem : t.mem = s.mem := by rfl
  flash : t.chip.flash = s.chip.flash := by rfl
  pending : t.chip.pending = s.chip.pending := by rfl
  lastOk : t.chip.lastOk = s.chip.lastOk := by rfl
  arg0 : t.arg0 = s.arg0 := by rfl
  arg1 : t.arg1 = s.arg1 := by rfl
  arg2 : t.arg2 = s.arg2 := by rfl
  arg3 : t.arg3 = s.arg3 := by rfl
  halted : t.halted = s.halted := by rfl
  platform : t.platform = s.platform := by rfl
  inputs : t.inputs = s.inputs := by rfl
  readData : t.readData = s.readData := by rfl
  retryCount : i ≠ .eraseBlockRetry → t.retryCount = s.retryCount := by exact fun _ => rfl
  attr : i ≠ .init ∧ i ≠ .setAttributes → t.attr = s.attr := by exact fun _ => rfl
  descriptor : i ≠ .init → SameDescriptor s t := by exact fun _ => ⟨rfl, rfl, rfl, rfl, rfl, rfl, rfl, rfl⟩
  controller : i ≠ .init ∧ i ≠ .relocate → t.ctrlBase = s.ctrlBase ∧ t.lstate = s.lstate := by exact fun _ => ⟨rfl, rfl⟩

/-- Only `fatal` sets HALTED (R357). -/
theorem Decision.apply_halted {n : Decision} (hn : n ≠ .fatal) (s : State) : (n.apply s).halted = s.halted := by
  cases n with
  | fatal => exact absurd rfl hn
  | goto | attempt | finish | results | raise => rfl

theorem commandFrame_of_accepted {i : Instr} {s u : State} {n : Decision}
    (hloads : Loads i (snapshot s) (acceptedState i s) u) (hn : StartAllows i u n) : CommandFrame i s (n.apply u) := by
  have hkept := n.kept_apply u
  have hframe := loads_frame hloads
  have hfatal : n ≠ .fatal := by
    rintro rfl
    exact hn
  exact {
    history := (n.apply_history u).trans hframe.history
    mem := (n.apply_mem u).trans hframe.mem
    flash := congrArg Chip.flash ((n.apply_chip u).trans hframe.chip)
    pending := congrArg Chip.pending ((n.apply_chip u).trans hframe.chip)
    lastOk := congrArg Chip.lastOk ((n.apply_chip u).trans hframe.chip)
    arg0 := hkept.arg0.trans hframe.arg0
    arg1 := hkept.arg1.trans hframe.arg1
    arg2 := hkept.arg2.trans hframe.arg2
    arg3 := hkept.arg3.trans hframe.arg3
    halted := (Decision.apply_halted hfatal u).trans hframe.halted
    platform := hkept.platform.trans hframe.platform
    inputs := hkept.inputs.trans hframe.inputs
    readData := hkept.readData.trans hframe.readData
    retryCount := fun hi => by
      by_contra hne
      obtain ⟨j, ses, rfl⟩ := Decision.attempt_of_retryCount_ne fun heq => hne (heq.trans hframe.retryCount)
      exact hi hn.1
    attr := fun hi => hkept.attr.trans (hframe.attr hi)
    descriptor := fun hi => { (hframe.descriptor hi).trans (sameDescriptor_of_kept hkept) with }
    controller := fun hi =>
      ⟨hkept.ctrlBase.trans (hframe.controller hi).1, hkept.lstate.trans (hframe.controller hi).2⟩ }

theorem commandFrame_accept (i : Instr) (s : State) : CommandFrame i s (accept i (startOf i) s) := by
  rcases accept_cases i (startOf i) s with ⟨-, h⟩ | ⟨-, -, h⟩ | ⟨-, -, -, h⟩ | ⟨-, -, -, r, -, h⟩ | ⟨-, -, -, -, h⟩ <;>
    rw [h]
  · exact {}
  · exact {}
  · exact {}
  · exact {}
  · obtain ⟨u, hloads, n, hn, heq⟩ := startOf_decides i s (acceptedState i s)
    have hstart : startOf i (snapshot s) (acceptedState i s) = n.apply ((Own.get s).set u) := heq (Own.get s)
    have hown : (Own.get s).set u = u := by cases hloads <;> rfl
    rw [hstart, hown]
    exact commandFrame_of_accepted hloads hn

/-- Settles O44: the frame of `accept`, for each way through R351. -/
theorem commandWriteFrame : Obligations.CommandWriteFrame := by
  intro i s t hexec
  rw [exec_eq_command] at hexec
  obtain ⟨-, rfl⟩ := command_next hexec
  have hframe := commandFrame_accept i s
  refine ⟨hframe.history, hframe.mem, hframe.flash, hframe.pending, hframe.lastOk, hframe.arg0, hframe.arg1,
    hframe.arg2, hframe.arg3, hframe.halted, hframe.platform, hframe.inputs, hframe.readData, hframe.retryCount,
    hframe.attr, fun hi => ?_, hframe.controller⟩
  obtain ⟨h1, h2, h3, h4, h5, h6, h7, h8⟩ := hframe.descriptor hi
  exact ⟨h1, h2, h3, h4, h5, h6, h7, h8⟩

/-! ### The registers of a micro-step -/

theorem Decision.unended_of_seq_ne {n : Decision} {s : State} (h : (n.apply s).seq ≠ .idle) :
    (n.apply s).resultCode = s.resultCode ∧ (n.apply s).halted = s.halted ∧ (n.apply s).result0 = s.result0 := by
  cases n with
  | goto | attempt => exact ⟨rfl, rfl, rfl⟩
  | finish | results | fatal | raise => exact absurd rfl h

theorem Decision.raise_of_fault_ne {n : Decision} {s : State}
    (h : (n.apply s).fault ≠ s.fault ∨ (n.apply s).faultReason ≠ s.faultReason) : ∃ r, n = .raise r := by
  cases n with
  | raise r => exact ⟨r, rfl⟩
  | goto | attempt | finish | results | fatal => exact absurd h (by rintro (h | h) <;> exact h rfl)

section
variable {op : Instr} {k : Pos} {ses : Session} {s : State} {n : Decision}

theorem StepAllows.retryCount (hn : StepAllows op k ses s n) (hop : op ≠ .eraseBlockRetry) (hk : k ≠ .poll) :
    (n.apply s).retryCount = s.retryCount := by
  by_contra hne
  obtain ⟨j, ses', rfl⟩ := Decision.attempt_of_retryCount_ne hne
  exact hn.1.elim hop hk

theorem StepAllows.result0 (hn : StepAllows op k ses s n) (hk : k ≠ .record) : (n.apply s).result0 = s.result0 := by
  cases n with
  | results => exact absurd hn.1 hk
  | goto | attempt | finish | fatal | raise => rfl

theorem StepAllows.result1 (hn : StepAllows op k ses s n) : (n.apply s).result1 = s.result1 := by
  cases n with
  | results => exact hn.2.2
  | goto | attempt | finish | fatal | raise => rfl

theorem StepAllows.fault (hn : StepAllows op k ses s n)
    (hne : (n.apply s).fault ≠ s.fault ∨ (n.apply s).faultReason ≠ s.faultReason) :
    (n.apply s).seq = .idle ∧ (op = .eraseBlocks ∨ k = .listLba ∨ k = .listNum) := by
  obtain ⟨r, rfl⟩ := Decision.raise_of_fault_ne hne
  exact ⟨rfl, hn.2⟩

end

/-! ### The memory of a micro-step -/

theorem byteOf_zero (v : Nat) : byteOf v 0 = BitVec.ofNat 8 v := by simp [byteOf]

/-- The store of one byte (R204). -/
theorem readByte_writeBytes_one {m : Memory} (hm : m.wf = true) (a v x : Nat) :
    readByte (writeBytes m a 1 v) x = if x = a then BitVec.ofNat 8 v else readByte m x := by
  rw [readByte_writeBytes hm]
  by_cases h : x = a
  · rw [if_pos h, if_pos (by omega), h, Nat.sub_self, byteOf_zero]
  · rw [if_neg h, if_neg (by omega)]

/-! ### The array of a micro-step -/

/-- The commit of a page leaves every byte outside its data stores alone (R97). -/
theorem condAt_page_of_outside {f : Flash} (hf : canonicalFlash f = true) (u : Bool) (base x : Nat)
    (page : List (Nat × BitVec 32)) (h : ∀ e ∈ page, x < e.1 - base ∨ e.1 - base + wordBytes ≤ x) :
    condAt (page.foldl (fun f e => programWord u f (e.1 - base) e.2) f) x = condAt f x := by
  induction page generalizing f with
  | nil => rfl
  | cons e r ih =>
    obtain ⟨hfirst, hrest⟩ := List.forall_mem_cons.mp h
    have hout : ¬ (e.1 - base ≤ x ∧ x < e.1 - base + 4) := by simp only [wordBytes] at hfirst; omega
    rw [List.foldl_cons, ih (canonical_programWord hf ..) hrest, condAt_programWord hf, if_neg hout]

/-- The commit of an erase leaves every byte outside its unit alone (R99). -/
theorem condAt_commitErase_of_outside {p : Platform} {b x : Nat} {c : Chip} (hf : canonicalFlash c.flash = true)
    (hx : x < unitOf p b * p.cfg.blockSize.toNat ∨ (unitOf p b + 1) * p.cfg.blockSize.toNat ≤ x) :
    condAt (commitErase p b c).flash x = condAt c.flash x := by
  have hout (cond : Cond) : condAt (setUnit p (unitOf p b) cond c.flash) x = condAt c.flash x :=
    (condAt_setUnit hf p (unitOf p b) cond x).trans (if_neg (by omega))
  unfold commitErase
  split
  · exact hout _
  · dsimp only
    split
    · exact hout _
    · rfl

theorem commitErase_immediate {p : Platform} (h : p.eraseCompletion = .immediate) (b : Nat) (c : Chip) :
    commitErase p b c =
      { c with flash := setUnit p (unitOf p b) (if c.undef then .undefined else .erased) c.flash } := by
  rw [commitErase, h]

/-- In ASYNC mode the erase of a defined chip joins PENDING (R104). -/
theorem commitErase_async {p : Platform} (h : p.eraseCompletion = .async) (b : Nat) {c : Chip}
    (hdef : c.undef = false) :
    commitErase p b c = { c with pending := insertUnit (unitOf p b) c.pending } := by
  rw [commitErase, h]
  simp [hdef]

/-- Besides the unit itself, PENDING is as it was (R104). -/
theorem mem_pending_commitErase {p : Platform} {b u : Nat} {c : Chip} (hu : u ≠ unitOf p b) :
    u ∈ (commitErase p b c).pending ↔ u ∈ c.pending := by
  unfold commitErase
  split
  · rfl
  · exact mem_insertUnit.trans (or_iff_right hu)

/-- Settles O43: a micro-step is its call and a decision. The memory, the array, PENDING and OPCOUNT are the call's; the
registers that end a command are the decision's; the others neither changes. -/
theorem microStepFrame : Obligations.MicroStepFrame := by
  refine ⟨fun s d hseq => by rw [microStep, hseq], fun s op k ses d hseq hwf hf => ?_⟩
  intro t field unit size
  obtain ⟨n, hn, hstep⟩ := microStep_decides hseq d
  have ht : t = n.apply (callAt k ses d s) := hstep
  have hcall := callAt_untouched k ses d s
  have hkept : Kept s t := kept_microStep d s
  have hmem : t.mem = (callAt k ses d s).mem := ht ▸ n.apply_mem _
  have hchip : t.chip = (callAt k ses d s).chip := ht ▸ n.apply_chip _
  refine ⟨?_, ?_, fun hcopy hrecord => hmem.trans (callAt_mem hcopy hrecord ses d s), ?_, ?_,
    fun h => (congrArg Chip.flash hchip).trans (callAt_flash h ses s),
    fun h => (congrArg Chip.pending hchip).trans (callAt_pending h ses s),
    (congrArg Chip.lastOk hchip).trans (callAt_lastOk k ses d s), fun hprogram herase => ?_, fun hop hk => ?_,
    fun hk => ?_, ?_, fun hseq => ?_, fun hne => ?_, hkept.cmd, hkept.arg0, hkept.arg1, hkept.arg2, hkept.arg3,
    hkept.lstate, hkept.cmdset, hkept.ctrlBase, hkept.devBase, hkept.regionBase, hkept.regionSize, hkept.blockSize,
    hkept.tagLo, hkept.tagHi, hkept.totalBlocks, hkept.attr, hkept.platform, hkept.inputs, hkept.draws, hkept.readData⟩
  · rintro rfl x
    rw [hmem]
    exact readByte_writeBytes_one hwf ses.buf ses.datum.toNat x
  · rintro rfl x
    rw [hmem]
    exact readByte_writeBytes hwf field fieldBytes (descriptorField s ses.idx).toNat x
  · rintro rfl hok x hout
    rw [hchip, callAt, emitFlush_chip, if_pos hok]
    exact condAt_page_of_outside hf s.chip.undef s.devBase.toNat x s.chip.page hout
  · rintro rfl hok
    rw [hchip, callAt, emitLatch_chip, if_pos hok]
    exact ⟨fun x hx => condAt_commitErase_of_outside hf hx,
      fun hasync hdef => by rw [commitErase_async hasync ses.addr hdef],
      fun u hu => mem_pending_commitErase hu,
      fun himmediate => by rw [commitErase_immediate himmediate]⟩
  · rw [ht, n.apply_opcount, callAt_opcount hprogram herase]
  · rw [ht, hn.retryCount hop hk, hcall.retryCount]
  · rw [ht, hn.result0 hk, hcall.result0]
  · rw [ht, hn.result1, hcall.result1]
  · rw [ht] at hseq ⊢
    obtain ⟨hcode, hhalted, hresult⟩ := Decision.unended_of_seq_ne hseq
    exact ⟨hcode.trans hcall.resultCode, hhalted.trans hcall.halted, hresult.trans hcall.result0⟩
  · rw [ht, ← hcall.fault, ← hcall.faultReason] at hne
    rw [ht]
    exact hn.fault hne

end Sys2Proof.Proofs
end

section
/-! PROOFS. What follows an ERROR answer and a POLL (20_memory.md R100, 41_erase_retry.md R262, R263). -/

namespace Sys2Proof.Proofs

open Sys2Proof Sys2Proof.Machine

/-! ### Failed attempts -/

theorem failAttempt_of_lt {ses : Session} (h : ses.attempt < 10) (s : State) :
    failAttempt ses s = beginAttempt (ses.attempt + 1) ses s := if_neg (Nat.not_le.mpr h)

theorem failAttempt_of_le {ses : Session} (h : 10 ≤ ses.attempt) (s : State) :
    failAttempt ses s = finish .deviceError s := if_pos h

/-! ### Polls -/

theorem microStep_poll {s : State} {ses : Session} (hseq : s.seq = .active .eraseBlockRetry .poll ses) (d : Draw) :
    microStep d s = contPoll (pollAnswer s.platform s.chip d).1 (pollAnswer s.platform s.chip d).2 ses
      (callAt .poll ses d s) := microStep_active hseq d

/-- An attempt fails when its polls run out or its erase failed (R262, R263). -/
theorem contPoll_fails {busy ok : Bool} {ses : Session} {s : State}
    (h : (busy = true ∧ s.platform.pollLimit = some (ses.idx + 1)) ∨ (busy = false ∧ ok = false)) :
    contPoll busy ok ses s = failAttempt ses s := by
  unfold contPoll
  rcases h with ⟨rfl, hlimit⟩ | ⟨rfl, rfl⟩
  · rw [if_pos rfl, if_pos hlimit]
  · rw [if_neg nofun, if_neg nofun]

/-- Settles O45: the three ways on from a POLL, and the two of a failed attempt. -/
theorem pollDecidesTheAttempt : Obligations.PollDecidesTheAttempt := by
  intro s ses d hseq a t
  have ht : t = contPoll a.1 a.2 ses (callAt .poll ses d s) := microStep_poll hseq d
  refine ⟨fun ⟨hbusy, hlimit⟩ => ?_, fun ⟨hidle, hok⟩ => ?_, fun hfails => ?_⟩
  · have hbelow : ¬ (callAt .poll ses d s).platform.pollLimit = some (ses.idx + 1) := hlimit
    rw [ht, contPoll, if_pos hbusy, if_neg hbelow]
    exact ⟨rfl, rfl⟩
  · rw [ht, contPoll, if_neg (by simp [hidle]), if_pos hok]
    exact ⟨rfl, rfl, rfl, rfl⟩
  · rw [ht, contPoll_fails (s := callAt .poll ses d s) hfails]
    refine ⟨fun hlt => ?_, fun hle => ?_⟩
    · rw [failAttempt_of_lt hlt]
      exact ⟨rfl, rfl⟩
    · rw [failAttempt_of_le hle]
      exact ⟨rfl, rfl, rfl, rfl⟩

/-! ### ERROR answers -/

/-- The positions of the configure events of a page program (R210). -/
abbrev programEventPositions : List Pos := [.ppCmd, .ppLoad, .ppWe, .ppFlush, .ppClear]

/-- A configure event of a page program that is answered ERROR ends its sequence (R210). -/
theorem microAt_program_error {k : Pos} (hk : k ∈ programEventPositions) {d : Draw} (hok : d.ok = false) (op : Instr)
    (ses : Session) (s : State) : microAt op k ses d s = afterProgram op .deviceError ses (callAt k ses d s) := by
  have hbad : ¬ d.ok = true := by simp [hok]
  simp only [List.mem_cons, List.not_mem_nil, or_false] at hk
  rcases hk with rfl | rfl | rfl | rfl | rfl <;> exact if_neg hbad

/-- The same for a configure event of an erase (R222). -/
theorem microAt_erase_error {k : Pos} (hk : k ∈ erasePositions) {d : Draw} (hok : d.ok = false) (op : Instr)
    (ses : Session) (s : State) : microAt op k ses d s = afterErase op .deviceError ses (callAt k ses d s) := by
  have hbad : ¬ d.ok = true := by simp [hok]
  simp only [List.mem_cons, List.not_mem_nil, or_false] at hk
  rcases hk with rfl | rfl | rfl | rfl <;> exact if_neg hbad

/-- An ERROR answer makes the chip undefined (R100). -/
theorem callAt_undef_of_error {k : Pos} (hk : k ∈ programEventPositions ∨ k ∈ erasePositions) {d : Draw}
    (hok : d.ok = false) (ses : Session) (s : State) : (callAt k ses d s).chip.undef = true := by
  have hundef (c : Bool) : (c || !d.ok) = true := by simp [hok]
  cases k
  case ppCmd | esCmd => exact hundef (beginSequence s.platform s.chip).undef
  case ppLoad | esLoad | ppWe | ppClear | esAddr => exact hundef s.chip.undef
  case ppFlush => rw [callAt, emitFlush_chip, if_neg (by simp [hok])]
  case esLatch => rw [callAt, emitLatch_chip, if_neg (by simp [hok])]
  all_goals simp at hk

/-- What a writing or erasing command does when its sequence fails (R212, R216, R223, R226, R262, R291). -/
def afterError (op : Instr) (ses : Session) : State → State :=
  if op = .eraseBlockRetry then failAttempt ses
  else if op ∈ [Instr.write, .fvbWrite, .erase, .eraseBlocks] then fatal
  else finish .deviceError

theorem afterProgram_error {op : Instr} (hop : op ∈ [Instr.writeChunk, .write, .fvbWrite]) (ses : Session)
    (s : State) : afterProgram op .deviceError ses s = afterError op ses s := by
  simp only [List.mem_cons, List.not_mem_nil, or_false] at hop
  rcases hop with rfl | rfl | rfl <;> rfl

theorem afterErase_error {op : Instr} (hop : op ∈ [Instr.eraseSingleBlock, .erase, .eraseBlocks, .eraseBlockRetry])
    (ses : Session) (s : State) : afterErase op .deviceError ses s = afterError op ses s := by
  simp only [List.mem_cons, List.not_mem_nil, or_false] at hop
  rcases hop with rfl | rfl | rfl | rfl <;> rfl

/-- The end of a failed sequence is a decision, and no fault or result. -/
theorem afterError_decides (op : Instr) (ses : Session) :
    ∃ n : Decision, (∀ s, afterError op ses s = n.apply s) ∧ (∀ r, n ≠ .raise r) ∧ ∀ r0 r1, n ≠ .results r0 r1 := by
  unfold afterError
  split_ifs
  · by_cases hlt : ses.attempt < 10
    · exact ⟨.attempt (ses.attempt + 1) ses, failAttempt_of_lt hlt, nofun, nofun⟩
    · exact ⟨.finish .deviceError, failAttempt_of_le (Nat.not_lt.mp hlt), nofun, nofun⟩
  · exact ⟨.fatal, fun _ => rfl, nofun, nofun⟩
  · exact ⟨.finish .deviceError, fun _ => rfl, nofun, nofun⟩

/-- Settles O42: the micro-step is its call, which makes the chip undefined and no more, and then `afterError`. -/
theorem errorAnswerEndsTheSequence : Obligations.ErrorAnswerEndsTheSequence := by
  intro s op k ses d hseq hok hpos t
  have ht : t = afterError op ses (callAt k ses d s) := by
    refine (microStep_active hseq d).trans ?_
    rcases hpos with ⟨hk, hop⟩ | ⟨hk, hop⟩
    · rw [microAt_program_error hk hok, afterProgram_error hop]
    · rw [microAt_erase_error hk hok, afterErase_error hop]
  have hevent : k ∈ programEventPositions ∨ k ∈ erasePositions := hpos.imp And.left And.left
  have hnowrite : k ≠ .memWrite ∧ k ≠ .record := by
    constructor <;> rintro rfl <;> simp at hevent
  have hcall := callAt_untouched k ses d s
  obtain ⟨n, hn, hraise, hresults⟩ := afterError_decides op ses
  have hfault : (n.apply (callAt k ses d s)).fault = s.fault := by
    by_contra hne
    obtain ⟨r, rfl⟩ := Decision.raise_of_fault_ne (.inl fun heq => hne (heq.trans hcall.fault))
    exact hraise r rfl
  have hresult : (n.apply (callAt k ses d s)).result0 = s.result0 ∧
      (n.apply (callAt k ses d s)).result1 = s.result1 := by
    rw [← hcall.result0, ← hcall.result1]
    cases n with
    | results r0 r1 => exact absurd rfl (hresults r0 r1)
    | goto | attempt | finish | fatal | raise => exact ⟨rfl, rfl⟩
  refine ⟨?_, ?_, ?_, ?_, ?_, ?_, ?_, fun hop => ?_, fun hop => ?_, fun ⟨hop, hlt⟩ => ?_⟩
  · rw [ht, hn, n.apply_chip, callAt_undef_of_error hevent hok]
  · rw [ht, hn, n.apply_chip, callAt_flash (.inr hok)]
  · rw [ht, hn, n.apply_chip, callAt_pending (.inr hok)]
  · rw [ht, hn, n.apply_mem, callAt_mem hnowrite.1 hnowrite.2]
  · rw [ht, hn, hfault]
  · rw [ht, hn, hresult.1]
  · rw [ht, hn, hresult.2]
  · have hend : t = finish .deviceError (callAt k ses d s) := by
      rcases hop with rfl | rfl | ⟨rfl, hle⟩
      · exact ht
      · exact ht
      · exact ht.trans (failAttempt_of_le hle _)
    rw [hend]
    exact ⟨rfl, rfl, rfl, hcall.halted, hcall.retryCount⟩
  · have hend : t = fatal (callAt k ses d s) := by
      simp only [List.mem_cons, List.not_mem_nil, or_false] at hop
      rcases hop with rfl | rfl | rfl | rfl <;> exact ht
    rw [hend]
    exact ⟨rfl, rfl, rfl, rfl, hcall.retryCount⟩
  · have hend : t = beginAttempt (ses.attempt + 1) ses (callAt k ses d s) := by
      subst hop
      exact ht.trans (failAttempt_of_lt hlt _)
    rw [hend]
    exact ⟨rfl, hcall.busy, hcall.resultCode, hcall.halted, rfl⟩

end Sys2Proof.Proofs
end

section
/-! PROOFS. The copy loop and the descriptor record (40_engine.md R204, R230, 42_facade.md R285). -/

namespace Sys2Proof.Proofs

open Sys2Proof Sys2Proof.Machine

/-! ### The copy loop -/

@[simp] theorem nextByte_goto (op op' : Instr) (k : Pos) (ses ses' : Session) (s : State) :
    nextByte op ses (goto op' k ses' s) = nextByte op ses s := by
  simp only [nextByte, goto_goto, finish_goto]

/-- The command goes on with its next byte whenever one was copied (R204, R285). -/
def CopiesByBytes (i : Instr) : Prop :=
  ∀ (ses : Session) (t : State), afterCopy i ses t = nextByte i (advanceByte ses) t

theorem copiesByBytes_read : CopiesByBytes .read := fun _ _ => rfl

theorem copiesByBytes_fvbRead : CopiesByBytes .fvbRead := fun _ _ => rfl

/-- A byte in flight, held in a word, is stored as it was read. -/
theorem ofNat_toNat_setWidth (b : Byte) : BitVec.ofNat 8 (b.setWidth 64).toNat = b :=
  BitVec.eq_of_toNat_eq (by simpa using b.isLt)

/-- The two micro-steps of one byte: its `WinRead` and its `MemWrite` (R204). -/
theorem runMicro_byte {i : Instr} (hi : CopiesByBytes i) {ses : Session} (hrem : ses.rem ≠ 0) (s : State)
    (d₁ d₂ : Draw) (ds : List Draw) :
    ∃ v : Word, v = (winRead s ses.addr d₁.byte).setWidth 64 ∧ runMicro (d₁ :: d₂ :: ds) (nextByte i ses s) =
      runMicro ds (nextByte i (advanceByte { ses with datum := v }) (memWrite ses.buf 1 v.toNat s)) := by
  refine ⟨_, rfl, ?_⟩
  have hstart : nextByte i ses s = goto i .winRead ses s := if_neg hrem
  rw [hstart, runMicro_cons, runMicro_cons, microStep_goto, microAt, goto_goto, microStep_goto, microAt, hi]
  exact congrArg (runMicro ds) (nextByte_goto i i .memWrite _ _ (memWrite ses.buf 1 _ s))

/-- From its first byte on the loop copies every byte, each with the draw of its own read, and finishes (R204). -/
theorem runMicro_copy {i : Instr} (hi : CopiesByBytes i) (len : Nat) (ses : Session) (hrem : ses.rem = len) (s : State)
    (hm : s.mem.wf = true) (ds : List Draw) (hds : ds.length = 2 * len) :
    ∃ m : Memory, runMicro ds (nextByte i ses s) = finish .success { s with mem := m } ∧ m.wf = true ∧
      ∀ x, readByte m x =
        if ses.buf ≤ x ∧ x < ses.buf + len then
          winRead s (ses.addr + (x - ses.buf)) (ds.getD (2 * (x - ses.buf)) default).byte
        else readByte s.mem x := by
  induction len generalizing ses s ds with
  | zero =>
    refine ⟨s.mem, ?_, hm, fun x => (if_neg (by omega)).symm⟩
    rw [List.length_eq_zero_iff.mp hds]
    exact if_pos hrem
  | succ len ih =>
    obtain ⟨d₁, d₂, ds, rfl⟩ : ∃ d₁ d₂ es, ds = d₁ :: d₂ :: es := by
      match ds, (by omega : 2 ≤ ds.length) with
      | d₁ :: d₂ :: es, _ => exact ⟨d₁, d₂, es, rfl⟩
    obtain ⟨v, hv, hbyte⟩ := runMicro_byte hi (ses := ses) (by omega) s d₁ d₂ ds
    obtain ⟨m, hrun, hwf, hread⟩ := ih (advanceByte { ses with datum := v }) (by simp [advanceByte, hrem])
      (memWrite ses.buf 1 v.toNat s) (wf_writeBytes ses.buf 1 v.toNat hm)
      ds (by simp only [List.length_cons] at hds; omega)
    refine ⟨m, hbyte.trans hrun, hwf, fun x => ?_⟩
    have hx : readByte m x =
        if ses.buf + 1 ≤ x ∧ x < ses.buf + 1 + len then
          winRead s (ses.addr + 1 + (x - (ses.buf + 1))) (ds.getD (2 * (x - (ses.buf + 1))) default).byte
        else readByte (writeBytes s.mem ses.buf 1 v.toNat) x := hread x
    rw [hx]
    by_cases hrest : ses.buf + 1 ≤ x ∧ x < ses.buf + 1 + len
    · obtain ⟨j, rfl⟩ : ∃ j, x = ses.buf + 1 + j := ⟨x - (ses.buf + 1), by omega⟩
      rw [if_pos hrest, if_pos (by omega), show ses.buf + 1 + j - (ses.buf + 1) = j by omega,
        show ses.buf + 1 + j - ses.buf = j + 1 by omega, Nat.add_assoc, Nat.add_comm 1 j]
      rfl
    · rw [if_neg hrest, readByte_writeBytes_one hm, hv, ofNat_toNat_setWidth]
      by_cases hfirst : x = ses.buf
      · rw [if_pos hfirst, if_pos (by omega), hfirst, Nat.sub_self]
        rfl
      · rw [if_neg hfirst, if_neg (by omega)]

/-- A copy whose checks pass does the run of R204. -/
theorem copyRun_of_nextByte {i : Instr} (hi : CopiesByBytes i) {s : State} {ses : Session}
    (hexec : exec i s = .next (nextByte i ses (acceptedState i s))) (hm : s.mem.wf = true) :
    copyRun i ses.addr ses.buf ses.rem s := by
  refine ⟨_, hexec, fun ds hds => ?_⟩
  obtain ⟨m, hrun, hwf, hread⟩ := runMicro_copy hi ses.rem ses rfl (acceptedState i s) hm ds hds
  have hfinish := congrArg (fun t : State => { t with mem := m }) (finish_acceptedState i .success s)
  exact ⟨m, hrun.trans hfinish, hwf, hread⟩

/-! ### READ and FVB_READ -/

theorem bufferFault_of_ok {s : State} {buf len : Nat} (h : BufferOk s buf len) : bufferFault s buf len = none := by
  unfold bufferFault
  rcases h with hlen | ⟨hlimit, hhost⟩
  · exact if_pos hlen
  · rw [if_neg (Nat.not_lt.mpr hlimit), if_neg (not_not.mpr hhost), ite_self]

/-- Settles O26: the checks pass, and the loop copies. -/
theorem readCopiesWindowBytes : Obligations.ReadCopiesWindowBytes := by
  intro s hs hm hok
  have hchecks : transferFault (acceptedState .read s) s.arg0.toNat s.arg1.toNat s.arg2.toNat = none :=
    transferFault_eq_none hok
  refine copyRun_of_nextByte copiesByBytes_read
    (ses := { snapshot s with addr := s.arg0.toNat, buf := s.arg1.toNat, rem := s.arg2.toNat }) ?_ hm
  calc exec .read s
      = .next (startRead (snapshot s) (acceptedState .read s)) := command_accepting hs startRead
    _ = _ := by simp only [startRead, snapshot, hchecks, raiseOr_none]

/-- The session of FVB_READ and FVB_WRITE: the translated address, the buffer, the length (R281). -/
def blockSession (s : State) : Session :=
  { snapshot s with addr := phys s s.arg0.toNat s.arg1.toNat, buf := s.arg3.toNat, rem := s.arg2.toNat }

/-- An accepted FVB_READ whose checks pass comes to its first byte (R285, R287). -/
theorem execFvbRead_accepted {s : State} (hs : Accepting .fvbRead s) (hlba : s.arg0.toNat < s.totalBlocks.toNat)
    (hblock : s.arg1.toNat + s.arg2.toNat ≤ s.blockSize.toNat) (hbuf : BufferOk s s.arg3.toNat s.arg2.toNat) :
    exec .fvbRead s = .next (nextByte .fvbRead (blockSession s) (acceptedState .fvbRead s)) := by
  have hchecks : bufferFault (acceptedState .fvbRead s) s.arg3.toNat s.arg2.toNat = none := bufferFault_of_ok hbuf
  have hl : ¬ s.totalBlocks.toNat ≤ s.arg0.toNat := Nat.not_le.mpr hlba
  have hb : ¬ s.blockSize.toNat < s.arg1.toNat + s.arg2.toNat := Nat.not_lt.mpr hblock
  calc exec .fvbRead s
      = .next (startFvbRead (snapshot s) (acceptedState .fvbRead s)) := command_accepting hs startFvbRead
    _ = _ := by
      simp only [startFvbRead, snapshot, acceptedState_totalBlocks, acceptedState_blockSize, if_neg hl, if_neg hb,
        hchecks, raiseOr_none]
      rfl

/-- Settles O27: the checks pass, and the loop copies from the translated address. -/
theorem fvbReadCopiesBlockBytes : Obligations.FvbReadCopiesBlockBytes := by
  intro s hs hm hlba hblock hbuf
  exact copyRun_of_nextByte copiesByBytes_fvbRead (execFvbRead_accepted hs hlba hblock hbuf) hm

/-! ### GET_DEVICES -/

/-- Host memory after the first `n` fields of the descriptor record, of 8 bytes each, were stored at `a` (R159, R230).
-/
def recordStored (s : State) (a n : Nat) : Memory :=
  (List.range n).foldl (fun m i => writeBytes m (a + 8 * i) 8 (descriptorField s i).toNat) s.mem

theorem recordStored_succ (s : State) (a n : Nat) :
    recordStored s a (n + 1) = writeBytes (recordStored s a n) (a + 8 * n) 8 (descriptorField s n).toNat := by
  simp [recordStored, List.range_succ]

theorem wf_recordStored {s : State} (hm : s.mem.wf = true) (a n : Nat) : (recordStored s a n).wf = true := by
  induction n with
  | zero => exact hm
  | succ n ih =>
    rw [recordStored_succ]
    exact wf_writeBytes _ _ _ ih

/-- Each byte of the record is a byte of its field, and no other byte changes (R159). -/
theorem readByte_recordStored {s : State} (hm : s.mem.wf = true) (a n x : Nat) :
    readByte (recordStored s a n) x =
      if a ≤ x ∧ x < a + 8 * n then byteOf (descriptorField s ((x - a) / 8)).toNat ((x - a) % 8)
      else readByte s.mem x := by
  induction n with
  | zero => exact (if_neg (by omega)).symm
  | succ n ih =>
    rw [recordStored_succ, readByte_writeBytes (wf_recordStored hm a n), ih]
    by_cases hlast : a + 8 * n ≤ x ∧ x < a + 8 * n + 8
    · rw [if_pos hlast, if_pos (by omega), show (x - a) / 8 = n by omega, show (x - a) % 8 = x - (a + 8 * n) by omega]
    · rw [if_neg hlast]
      exact if_congr (by omega) rfl rfl

/-- A little-endian value is read back from its bytes (R84). -/
theorem readBytes_of_bytes {m : Memory} {a n v : Nat} (hv : v < 256 ^ n)
    (h : ∀ i < n, readByte m (a + i) = byteOf v i) : readBytes m a n = v := by
  induction n generalizing a v with
  | zero => simp only [pow_zero] at hv; simp only [readBytes]; omega
  | succ n ih =>
    have hfirst : (readByte m a).toNat = v % 256 := by
      have h0 := h 0 (Nat.succ_pos n)
      rw [Nat.add_zero, byteOf_zero] at h0
      rw [h0, BitVec.toNat_ofNat]
    have hrest : readBytes m (a + 1) n = v / 256 := by
      refine ih (Nat.div_lt_of_lt_mul (by rwa [← pow_succ'])) fun i hi => ?_
      rw [Nat.add_assoc, Nat.add_comm 1, h (i + 1) (by omega), byteOf, byteOf, pow_succ', Nat.div_div_eq_div_mul]
    rw [readBytes, hfirst, hrest]
    omega

/-- A field of the whole record reads as it was stored (R159). -/
theorem readBytes_recordStored {s : State} (hm : s.mem.wf = true) (a : Nat) {j : Nat} (hj : j < 6) :
    readBytes (recordStored s a 6) (a + 8 * j) 8 = (descriptorField s j).toNat := by
  refine readBytes_of_bytes (descriptorField s j).isLt fun i hi => ?_
  rw [readByte_recordStored hm, if_pos (by omega), show (a + 8 * j + i - a) / 8 = j by omega,
    show (a + 8 * j + i - a) % 8 = i by omega]

/-- The store of field `i` into the record (R230). -/
theorem memWrite_recordStored (ses : Session) (i : Nat) (s : State) :
    memWrite (ses.buf + fieldBytes * i) fieldBytes (descriptorField s i).toNat
      { s with mem := recordStored s ses.buf i } = { s with mem := recordStored s ses.buf (i + 1) } := by
  rw [recordStored_succ]
  rfl

/-- The micro-step of field `i` (R230). -/
theorem microStep_record (d : Draw) (i : Nat) (ses : Session) (s : State) :
    microStep d (goto .getDevices .record { ses with idx := i } { s with mem := recordStored s ses.buf i }) =
      if i + 1 < recordFields then
        goto .getDevices .record { ses with idx := i + 1 } { s with mem := recordStored s ses.buf (i + 1) }
      else finishResult 1 { s with mem := recordStored s ses.buf (i + 1) } := by
  rw [← memWrite_recordStored]
  rfl

theorem finishResult_withMem (r : Word) (m : Memory) (s : State) :
    finishResult r { s with mem := m } = { finishResult r s with mem := m } := rfl

/-- From field `i` on the record is stored field by field, and the command returns one device (R230). -/
theorem runMicro_record (n i : Nat) (hi : i + n + 1 = 6) (ses : Session) (s : State) (ds : List Draw)
    (hds : ds.length = n + 1) :
    runMicro ds (goto .getDevices .record { ses with idx := i } { s with mem := recordStored s ses.buf i }) =
      { finishResult 1 s with mem := recordStored s ses.buf 6 } := by
  induction n generalizing i ds with
  | zero =>
    obtain ⟨d, rfl⟩ := List.length_eq_one_iff.mp hds
    rw [runMicro_cons, microStep_record, if_neg (by simp only [recordFields]; omega), show i + 1 = 6 by omega, runMicro,
      finishResult_withMem]
  | succ n ih =>
    obtain ⟨d, ds, rfl⟩ : ∃ d es, ds = d :: es := by
      match ds, (by omega : 1 ≤ ds.length) with
      | d :: es, _ => exact ⟨d, es, rfl⟩
    rw [runMicro_cons, microStep_record, if_pos (by simp only [recordFields]; omega)]
    exact ih (i + 1) (by omega) ds (by simpa using hds)

/-- From its first field on GET_DEVICES stores the whole record and returns one device (R230). -/
theorem runMicro_getDevices {ses : Session} (hidx : ses.idx = 0) (s : State) {ds : List Draw} (hds : ds.length = 6) :
    runMicro ds (goto .getDevices .record ses s) = { finishResult 1 s with mem := recordStored s ses.buf 6 } := by
  have hses : { ses with idx := 0 } = ses := by rw [← hidx]
  have hmem : { s with mem := recordStored s ses.buf 0 } = s := rfl
  have hrun := runMicro_record 5 0 rfl ses s ds hds
  rw [hses, hmem] at hrun
  exact hrun

/-- Acceptance changes neither host memory nor the descriptor. -/
theorem recordStored_acceptedState (i : Instr) (s : State) (a n : Nat) :
    recordStored (acceptedState i s) a n = recordStored s a n := rfl

theorem finishResult_acceptedState_withMem (i : Instr) (r : Word) (m : Memory) (s : State) :
    { finishResult r (acceptedState i s) with mem := m } = { ended i .success 0 s with result0 := r, mem := m } :=
  congrArg (fun t : State => { t with mem := m }) (finishResult_acceptedState i r s)

/-- The session of GET_DEVICES: the record's address (R230). -/
def recordSession (s : State) : Session := { snapshot s with buf := s.arg0.toNat }

/-- Settles O28: the checks pass, `runMicro_getDevices` stores the record, and its bytes are read off. -/
theorem getDevicesWritesDescriptor : Obligations.GetDevicesWritesDescriptor := by
  intro s hs hm hbuf
  have hchecks : bufferFault (acceptedState .getDevices s) s.arg0.toNat (recordFields * fieldBytes) = none :=
    bufferFault_of_ok hbuf
  have hexec : exec .getDevices s = .next (goto .getDevices .record (recordSession s) (acceptedState .getDevices s)) :=
    (command_accepting hs startGetDevices).trans (by
      simp only [startGetDevices, snapshot, hchecks, raiseOr_none, recordSession])
  have hrecord : (recordSession s).buf = s.arg0.toNat := rfl
  obtain ⟨m, hstored⟩ : ∃ m, recordStored s s.arg0.toNat 6 = m := ⟨_, rfl⟩
  refine ⟨_, hexec, fun ds hds => ⟨m, ?_, hstored ▸ wf_recordStored hm _ _, ?_, fun x hx => ?_⟩⟩
  · rw [runMicro_getDevices (ses := recordSession s) rfl _ hds, recordStored_acceptedState, hrecord, hstored,
      finishResult_acceptedState_withMem]
  · have hfield (j : Nat) (hj : j < 6) : readBytes m (s.arg0.toNat + 8 * j) 8 = (descriptorField s j).toNat :=
      hstored ▸ readBytes_recordStored hm s.arg0.toNat hj
    have h0 := hfield 0 (by decide)
    have h1 := hfield 1 (by decide)
    have h2 := hfield 2 (by decide)
    have h3 := hfield 3 (by decide)
    have h4 := hfield 4 (by decide)
    have h5 := hfield 5 (by decide)
    simp only [descriptorField, Nat.reduceMul] at h0 h1 h2 h3 h4 h5
    simp only [List.map_cons, List.map_nil, h0, h1, h2, h3, h4, h5]
  · rw [← hstored, readByte_recordStored hm]
    exact if_neg (by omega)

end Sys2Proof.Proofs
end

section
/-! PROOFS. FVB_WRITE, and its bytes read back with FVB_READ (42_facade.md R281, R285, R286, 20_memory.md R90, R97). -/

namespace Sys2Proof.Proofs

open Sys2Proof Sys2Proof.Machine

/-! ### FVB_WRITE -/

theorem writesByChunks_fvbWrite : WritesByChunks .fvbWrite := fun _ _ => rfl

/-- An accepted FVB_WRITE whose checks pass comes to its first chunk (R286, R287). -/
theorem execFvbWrite_accepted {s : State} (hs : Accepting .fvbWrite s) (hlba : s.arg0.toNat < s.totalBlocks.toNat)
    (hblock : s.arg1.toNat + s.arg2.toNat ≤ s.blockSize.toNat) (haddr : phys s s.arg0.toNat s.arg1.toNat % 4 = 0)
    (hlen : s.arg2.toNat % 4 = 0) (hbuf : BufferOk s s.arg3.toNat s.arg2.toNat) :
    exec .fvbWrite s = .next (nextChunk .fvbWrite (blockSession s) (acceptedState .fvbWrite s)) := by
  have hchecks : bufferFault (acceptedState .fvbWrite s) s.arg3.toNat s.arg2.toNat = none := bufferFault_of_ok hbuf
  have hl : ¬ s.totalBlocks.toNat ≤ s.arg0.toNat := Nat.not_le.mpr hlba
  have hb : ¬ s.blockSize.toNat < s.arg1.toNat + s.arg2.toNat := Nat.not_lt.mpr hblock
  have hparams : ¬ (phys s s.arg0.toNat s.arg1.toNat % wordBytes ≠ 0 ∨ s.arg2.toNat % wordBytes ≠ 0) := by
    simp only [wordBytes, haddr, hlen, ne_eq, not_true_eq_false, or_self, not_false_eq_true]
  calc exec .fvbWrite s
      = .next (startFvbWrite (snapshot s) (acceptedState .fvbWrite s)) := command_accepting hs startFvbWrite
    _ = _ := by
      simp only [startFvbWrite, snapshot, acceptedState_totalBlocks, acceptedState_blockSize, if_neg hl, if_neg hb,
        hchecks, raiseOr_none]
      exact congrArg _ (if_neg hparams)

/-- A command other than INIT is accepted only after INIT (R369). -/
theorem lstate_ne_uninit_of_accepting {i : Instr} {s : State} (hs : Accepting i s) (hi : i ≠ .init) :
    s.lstate ≠ .uninit := by
  obtain ⟨-, -, -, -, hlife⟩ := hs
  exact fun hl => hi ((lifecycleFault_none.mp hlife).1.mpr hl)

/-- A block of the LBA range lies in the window (R281, R57). -/
theorem devBase_le_phys {i : Instr} {s : State} (hs : Accepting i s) (hi : i ≠ .init) (hinv : Inv s) (l o : Nat) :
    s.devBase.toNat ≤ phys s l o := by
  obtain ⟨-, hlo, -⟩ := blocksInWindow_of_inv hinv.descriptor (lstate_ne_uninit_of_accepting hs hi)
  simp only [phys]
  omega

/-- Settles O31: the command comes to its first chunk, and FVB_WRITE is a write by chunks. -/
theorem fvbWriteProgramsBlockBytes : Obligations.FvbWriteProgramsBlockBytes := by
  intro s hs hinv hlba hblock haddr hlen hbuf
  obtain ⟨-, -, hf⟩ := hinv.memory
  exact programRun_chunks writesByChunks_fvbWrite (execFvbWrite_accepted hs hlba hblock haddr hlen hbuf) hf hlen
    (.inr (devBase_le_phys hs nofun hinv _ _))

/-! ### Read back -/

/-- A chip that is defined once a sequence has begun is readable before (R90, R106). -/
theorem readable_of_undefOnceBegun {s : State} (h : undefOnceBegun s = false) : Readable s := by
  obtain ⟨hdef, hpending⟩ := Bool.or_eq_false_iff.mp h
  refine ⟨hdef, fun hasync => ?_⟩
  rw [hasync] at hpending
  simpa using hpending

/-- A programmed byte of a readable chip reads as it was programmed, whatever is drawn (R90). -/
theorem winRead_of_programmed {s : State} (h : Readable s) {a : Nat} {v : Byte}
    (hv : condAt s.chip.flash (a - s.devBase.toNat) = .programmed v) (b : Byte) : winRead s a b = v := by
  obtain ⟨-, -, hread⟩ := windowReadCases s.platform s.chip (a - s.devBase.toNat) b
  exact (hread h.1 h.2).2.1 v hv

/-- FVB_READ of a programmed range of a readable chip copies what was programmed, whatever is drawn (R285, R90). -/
theorem fvbRead_of_programmed {s : State} (hs : Accepting .fvbRead s) (hm : s.mem.wf = true)
    (hlba : s.arg0.toNat < s.totalBlocks.toNat) (hblock : s.arg1.toNat + s.arg2.toNat ≤ s.blockSize.toNat)
    (hbuf : BufferOk s s.arg3.toNat s.arg2.toNat) (hreadable : Readable s) (v : Nat → Byte)
    (hv : ∀ j < s.arg2.toNat,
      condAt s.chip.flash (phys s s.arg0.toNat s.arg1.toNat + j - s.devBase.toNat) = .programmed (v j))
    (es : List Draw) (hes : es.length = 2 * s.arg2.toNat) :
    ∃ u, exec .fvbRead s = .next u ∧ (runMicro es u).busy = false ∧ (runMicro es u).fault = false ∧
      (runMicro es u).resultCode = .success ∧
      ∀ j < s.arg2.toNat, readByte (runMicro es u).mem (s.arg3.toNat + j) = v j := by
  obtain ⟨u, hexec, hcopy⟩ := fvbReadCopiesBlockBytes s hs hm hlba hblock hbuf
  obtain ⟨m, hend, -, hbytes⟩ := hcopy es hes
  obtain ⟨-, hfault, -⟩ := hs
  refine ⟨u, hexec, ?_⟩
  rw [hend]
  refine ⟨rfl, hfault, rfl, fun j hj => (hbytes _).trans ?_⟩
  rw [if_pos ⟨Nat.le_add_right _ _, Nat.add_lt_add_left hj _⟩, Nat.add_sub_cancel_left]
  exact winRead_of_programmed hreadable (hv j hj) _

/-- Settles O32: FVB_WRITE leaves each byte of the range PROGRAMMED with its buffer byte, on a readable chip, and
`fvbRead_of_programmed` reads them back. -/
theorem fvbWriteThenReadReturnsBytes : Obligations.FvbWriteThenReadReturnsBytes := by
  intro s buf2 ds es hs hinv hundef hlba hblock haddr hlen hbuf hbuf2 herased hds hok hes
  obtain ⟨t, hwrite, hprogram⟩ := fvbWriteProgramsBlockBytes s hs hinv hlba hblock haddr hlen hbuf
  obtain ⟨f, page, hrun, -, hcond⟩ := hprogram ds hds hok
  obtain ⟨hdef, hpending⟩ := readable_of_undefOnceBegun hundef
  have hbase := devBase_le_phys hs nofun hinv s.arg0.toNat s.arg1.toNat
  obtain ⟨hm, -, -⟩ := hinv.memory
  have hlife : lifecycleFault .fvbRead s.lstate = none :=
    lifecycleFault_none.mpr ⟨iff_of_false nofun (lstate_ne_uninit_of_accepting hs nofun), nofun⟩
  obtain ⟨hwf, hfault, -, hhalted, -⟩ := hs
  have hstilldef : (if chunkList s.arg2.toNat = [] then s.chip.undef else undefOnceBegun s) = false :=
    (ite_eq_right_iff.mpr fun _ => hdef.trans hundef.symm).trans hundef
  have hprogrammed (j : Nat) (hj : j < s.arg2.toNat) :
      condAt f (phys s s.arg0.toNat s.arg1.toNat + j - s.devBase.toNat) =
        .programmed (readByte s.mem (s.arg3.toNat + j)) := by
    have hj' := hcond (phys s s.arg0.toNat s.arg1.toNat - s.devBase.toNat + j)
    have hin := herased j hj
    rw [show s.regionBase.toNat + s.arg0.toNat * s.blockSize.toNat + s.arg1.toNat = phys s s.arg0.toNat s.arg1.toNat
      from rfl] at hj' hin
    rw [if_pos ⟨Nat.le_add_right _ _, Nat.add_lt_add_left hj _⟩, if_pos ⟨hin, hundef⟩, Nat.add_sub_cancel_left] at hj'
    rw [show phys s s.arg0.toNat s.arg1.toNat + j - s.devBase.toNat =
      phys s s.arg0.toNat s.arg1.toNat - s.devBase.toNat + j by omega, hj']
  have hreadback := fvbRead_of_programmed (s := { runMicro ds t with arg3 := buf2 })
  refine ⟨t, ?_⟩
  rw [hrun] at hreadback ⊢
  obtain ⟨u, hread⟩ := hreadback ⟨hwf, hfault, rfl, hhalted, hlife⟩ hm hlba hblock hbuf2 ⟨hstilldef, hpending⟩ _
    hprogrammed es hes
  exact ⟨u, hwrite, hread⟩

end Sys2Proof.Proofs
end

section
/-! PROOFS. The micro-steps of a single-block erase, every answer OK (40_engine.md R222), and what erases in a row leave
(20_memory.md R99, R101, R103). -/

namespace Sys2Proof.Proofs

open Sys2Proof Sys2Proof.Machine

/-! ### SEQ is overwritten by what follows a micro-step -/

@[simp] theorem beginAttempt_goto (n : Nat) (op : Instr) (k : Pos) (ses ses' : Session) (s : State) :
    beginAttempt n ses (goto op k ses' s) = beginAttempt n ses s := rfl

@[simp] theorem nextUnit_goto (op : Instr) (k : Pos) (ses ses' : Session) (s : State) :
    nextUnit ses (goto op k ses' s) = nextUnit ses s := by
  simp only [nextUnit, goto_goto, finish_goto]

theorem raiseOr_goto_goto (f : Option FaultReason) (op op' : Instr) (k k' : Pos) (ses ses' : Session) (s : State) :
    raiseOr f (goto op k ses) (goto op' k' ses' s) = raiseOr f (goto op k ses) s := by
  cases f <;> rfl

@[simp] theorem nextPair_goto (op : Instr) (k : Pos) (ses ses' : Session) (s : State) :
    nextPair ses (goto op k ses' s) = nextPair ses s := raiseOr_goto_goto ..

@[simp] theorem nextPairUnit_goto (op : Instr) (k : Pos) (ses ses' : Session) (s : State) :
    nextPairUnit ses (goto op k ses' s) = nextPairUnit ses s := by
  simp only [nextPairUnit, goto_goto, nextPair_goto]

@[simp] theorem failAttempt_goto (op : Instr) (k : Pos) (ses ses' : Session) (s : State) :
    failAttempt ses (goto op k ses' s) = failAttempt ses s := by
  simp only [failAttempt, finish_goto, beginAttempt_goto]

/-- What a command does after an erase does not depend on the position it comes from. -/
@[simp] theorem afterErase_goto (op op' : Instr) (st : Status) (k : Pos) (ses ses' : Session) (s : State) :
    afterErase op st ses (goto op' k ses' s) = afterErase op st ses s := by
  cases op
  case erase => simp only [afterErase, contErase, advanceUnit, goto_blockSize, nextUnit_goto, fatal_goto]
  case eraseBlocks =>
    simp only [afterErase, contEraseBlocks, advanceUnit, goto_blockSize, nextPairUnit_goto, fatal_goto]
  case eraseBlockRetry => simp only [afterErase, contEraseBlockRetry, goto_goto, failAttempt_goto]
  all_goals rfl

/-! ### One erase -/

/-- `s` after the erase sequence of address `b`, every answer OK (R222, R99, R42): one more sequence, its events, and
its erase committed. -/
def unitErased (b : Nat) (s : State) : State :=
  { logged (eraseEvents s b) (beginEvent s) with
    chip := commitErase s.platform b (beginSequence s.platform s.chip) }

/-- The erase sequence of the session's address, every answer OK and nothing between its micro-steps (R222). -/
theorem runMicro_eraseUnit (op : Instr) (ses : Session) (s : State) (ds : List Draw) (hds : ds.length = 4)
    (hok : AllOk ds) :
    runMicro ds (goto op .esCmd ses s) = afterErase op .success ses (unitErased ses.addr s) := by
  obtain ⟨d₁, d₂, d₃, d₄, rfl⟩ : ∃ d₁ d₂ d₃ d₄, ds = [d₁, d₂, d₃, d₄] := by
    match ds, hds with
    | [d₁, d₂, d₃, d₄], _ => exact ⟨d₁, d₂, d₃, d₄, rfl⟩
  obtain ⟨h₁, h₂, h₃, h₄⟩ : d₁.ok = true ∧ d₂.ok = true ∧ d₃.ok = true ∧ d₄.ok = true := by simpa [AllOk] using hok
  have hcmd : microStep d₁ (goto op .esCmd ses s) =
      goto op .esLoad ses (logged ((eraseEvents s ses.addr).take 1) (beginEvent s)) := by
    simp only [microStep_goto, microAt, h₁, if_true, emitCmd, configure_ok]
    rfl
  have hload (t : State) : microStep d₂ (goto op .esLoad ses t) =
      goto op .esAddr ses (logged (((eraseEvents t ses.addr).drop 1).take 1) t) := by
    simp only [microStep_goto, microAt, h₂, if_true, emitLoad, configure_ok]
    rfl
  have haddr (t : State) : microStep d₃ (goto op .esAddr ses t) =
      goto op .esLatch ses (logged (((eraseEvents t ses.addr).drop 2).take 1) t) := by
    simp only [microStep_goto, microAt, h₃, if_true, emitAddr, configure_ok]
    rfl
  have hlatch (t : State) : microStep d₄ (goto op .esLatch ses t) =
      afterErase op .success ses
        { logged ((eraseEvents t ses.addr).drop 3) t with chip := commitErase t.platform ses.addr t.chip } := by
    simp only [microStep_goto, microAt, h₄, if_true, emitLatch, configure_ok]
    exact afterErase_goto op op .success .esLatch ses ses
      { logged ((eraseEvents t ses.addr).drop 3) t with chip := commitErase t.platform ses.addr t.chip }
  simp only [runMicro_cons, hcmd, hload, haddr, hlatch, logged_logged]
  rfl

theorem canonical_unitErased {s : State} (hf : canonicalFlash s.chip.flash = true) (b : Nat) :
    canonicalFlash (unitErased b s).chip.flash = true := canonical_commitErase s.platform b hf

section
variable {s : State} (himmediate : s.platform.eraseCompletion = .immediate)
include himmediate

/-- In IMMEDIATE mode an erase sequence answered OK leaves the undefined flag, PENDING and LAST_OK alone (R103, R106).
-/
theorem unitErased_immediate (b : Nat) :
    unitErased b s =
      { s with
        opcount := s.platform.width.trunc (s.opcount + 1)
        history := s.history ++ answeredOk s.history.length (eraseEvents s b)
        chip := { s.chip with
          flash := setUnit s.platform (unitOf s.platform b) (if s.chip.undef then .undefined else .erased) s.chip.flash
          page := [] } } := by
  have hundef : (beginSequence s.platform s.chip).undef = s.chip.undef := undefOnceBegun_of_quiet (.inl himmediate)
  rw [unitErased, commitErase_immediate himmediate, hundef]
  rfl

/-- Each byte of the array after an erase in IMMEDIATE mode (R99, R101). -/
theorem condAt_unitErased (hf : canonicalFlash s.chip.flash = true) (b x : Nat) :
    condAt (unitErased b s).chip.flash x =
      if InUnit s b x then (if s.chip.undef then .undefined else .erased) else condAt s.chip.flash x := by
  rw [unitErased_immediate himmediate]
  exact condAt_setUnit hf s.platform (unitOf s.platform b) _ x

end

/-! ### Erases in a row -/

/-- `s` after the erase sequences of the addresses `bs`, in order, every answer OK (R225, R288). -/
def unitsErased (bs : List Nat) (s : State) : State := bs.foldl (fun t b => unitErased b t) s

theorem unitsErased_cons (b : Nat) (bs : List Nat) (s : State) :
    unitsErased (b :: bs) s = unitsErased bs (unitErased b s) := rfl

theorem unitsErased_append (as bs : List Nat) (s : State) :
    unitsErased (as ++ bs) s = unitsErased bs (unitsErased as s) := List.foldl_append

/-- Erases change OPCOUNT, the history and the chip. -/
theorem kept_unitErased (b : Nat) (s : State) : Kept s (unitErased b s) := by constructor <;> rfl

theorem kept_unitsErased (bs : List Nat) (s : State) : Kept s (unitsErased bs s) := by
  induction bs generalizing s with
  | nil => exact Kept.refl s
  | cons b bs ih => exact (kept_unitErased b s).trans (ih _)

theorem unitsErased_mem (bs : List Nat) (s : State) : (unitsErased bs s).mem = s.mem := by
  induction bs generalizing s with
  | nil => rfl
  | cons b bs ih => exact ih (unitErased b s)

theorem canonical_unitsErased {s : State} (hf : canonicalFlash s.chip.flash = true) (bs : List Nat) :
    canonicalFlash (unitsErased bs s).chip.flash = true := by
  induction bs generalizing s with
  | nil => exact hf
  | cons b bs ih => exact ih (canonical_unitErased hf b)

/-- Erases in a row in IMMEDIATE mode change OPCOUNT, the history, the array and the page buffer: one sequence an
address, the events in order (R42, R155). -/
theorem unitsErased_eq (bs : List Nat) (n : Nat) (s : State) (himmediate : s.platform.eraseCompletion = .immediate)
    (hcount : s.opcount = s.platform.width.trunc (wordOf n)) :
    unitsErased bs s =
      { s with
        opcount := s.platform.width.trunc (wordOf (n + bs.length))
        history := s.history ++ answeredOk s.history.length (bs.flatMap fun b => eraseEvents s b)
        chip := { s.chip with
          flash := (unitsErased bs s).chip.flash, page := (unitsErased bs s).chip.page } } := by
  induction bs generalizing s n with
  | nil => simp [unitsErased, ← hcount]
  | cons b bs ih =>
    have hfirst : (unitErased b s).opcount = s.platform.width.trunc (wordOf (n + 1)) :=
      (congrArg (fun v => s.platform.width.trunc (v + 1)) hcount).trans (trunc_trunc_add_one _ n)
    refine (ih (n + 1) (unitErased b s) himmediate hfirst).trans ?_
    rw [← unitsErased_cons]
    generalize unitsErased (b :: bs) s = t
    rw [unitErased_immediate himmediate]
    simp only [List.flatMap_cons, answeredOk_append, List.append_assoc, List.length_append, length_answeredOk,
      List.length_cons, Nat.add_assoc, Nat.add_comm 1]
    rfl

/-- Each byte of the array after erases in a row in IMMEDIATE mode (R99, R101). -/
theorem condAt_unitsErased {s : State} (himmediate : s.platform.eraseCompletion = .immediate)
    (hf : canonicalFlash s.chip.flash = true) (bs : List Nat) (x : Nat) :
    condAt (unitsErased bs s).chip.flash x =
      if ∃ b ∈ bs, InUnit s b x then (if s.chip.undef then .undefined else .erased) else condAt s.chip.flash x := by
  induction bs generalizing s with
  | nil => simp [unitsErased]
  | cons b bs ih =>
    have hundef : (unitErased b s).chip.undef = s.chip.undef := by rw [unitErased_immediate himmediate]
    rw [unitsErased_cons, ih (s := unitErased b s) himmediate (canonical_unitErased hf b),
      condAt_unitErased himmediate hf, hundef]
    change (if ∃ b' ∈ bs, InUnit s b' x then _ else _) = _
    by_cases hrest : ∃ b' ∈ bs, InUnit s b' x
    · rw [if_pos hrest, if_pos (hrest.imp fun b' h => ⟨List.mem_cons_of_mem _ h.1, h.2⟩)]
    · rw [if_neg hrest]
      refine if_congr ⟨fun h => ⟨b, List.mem_cons_self, h⟩, ?_⟩ rfl rfl
      rintro ⟨b', hb', h⟩
      exact (List.mem_cons.mp hb').elim (fun heq => heq ▸ h) fun hmem => absurd ⟨b', hmem, h⟩ hrest

/-- A command whose run erases the units of some addresses and ends does the run of R222 and R225: `unitsErased_eq` says
what changed, and `condAt_unitsErased` reads the array off. -/
theorem eraseRun_of_unitsErased {i : Instr} {c : Status} {reads : Nat} {bs : List Nat} {s t : State}
    (hf : canonicalFlash s.chip.flash = true) (himmediate : s.platform.eraseCompletion = .immediate)
    (hexec : exec i s = .next t)
    (hrun : ∀ ds : List Draw, ds.length = reads + 4 * bs.length → AllOk ds →
      runMicro ds t = finish c (unitsErased bs (acceptedState i s))) : eraseRun i c reads bs s := by
  refine ⟨t, hexec, fun ds hds hok => ⟨_, (unitsErased bs (acceptedState i s)).chip.page, ?_,
    canonical_unitsErased (s := acceptedState i s) hf bs,
    condAt_unitsErased (s := acceptedState i s) himmediate hf bs⟩⟩
  rw [hrun ds hds hok, unitsErased_eq bs 0 (acceptedState i s) himmediate (trunc_zero _).symm, Nat.zero_add]
  rfl

end Sys2Proof.Proofs
end

section
/-! PROOFS. The runs of ERASE_SINGLE_BLOCK, ERASE and ERASE_BLOCKS (40_engine.md R223, R225, 42_facade.md R288 to
R291). -/

namespace Sys2Proof.Proofs

open Sys2Proof Sys2Proof.Machine

/-! ### ERASE_SINGLE_BLOCK -/

/-- The session of ERASE_SINGLE_BLOCK and ERASE_BLOCK_RETRY: the one address (R223, R261). -/
def addressSession (s : State) : Session := { snapshot s with addr := s.arg0.toNat, rem := 1 }

theorem eraseAddressFault_of_inWindow {s : State} {b : Nat} (hlo : s.devBase.toNat ≤ b)
    (hhi : b < s.devBase.toNat + s.platform.flashSize) : eraseAddressFault s b = none :=
  if_neg (not_not.mpr (.inr ⟨hlo, hhi⟩))

/-- An accepted ERASE_SINGLE_BLOCK of a window address comes to its sequence (R223). -/
theorem execEraseSingleBlock_accepted {s : State} (hs : Accepting .eraseSingleBlock s)
    (hlo : s.devBase.toNat ≤ s.arg0.toNat) (hhi : s.arg0.toNat < s.devBase.toNat + s.platform.flashSize) :
    exec .eraseSingleBlock s =
      .next (goto .eraseSingleBlock .esCmd (addressSession s) (acceptedState .eraseSingleBlock s)) := by
  have hchecks : eraseAddressFault (acceptedState .eraseSingleBlock s) s.arg0.toNat = none :=
    eraseAddressFault_of_inWindow hlo hhi
  calc exec .eraseSingleBlock s
      = .next (startEraseSingleBlock (snapshot s) (acceptedState .eraseSingleBlock s)) :=
        command_accepting hs startEraseSingleBlock
    _ = _ := by simp only [startEraseSingleBlock, snapshot, hchecks, raiseOr_none, addressSession]

/-- The run of ERASE_SINGLE_BLOCK, every answer OK (R222, R223). -/
theorem runMicro_eraseSingleBlock (s : State) {ds : List Draw} (hds : ds.length = 4) (hok : AllOk ds) :
    runMicro ds (goto .eraseSingleBlock .esCmd (addressSession s) (acceptedState .eraseSingleBlock s)) =
      finish .success (unitErased s.arg0.toNat (acceptedState .eraseSingleBlock s)) :=
  runMicro_eraseUnit .eraseSingleBlock (addressSession s) (acceptedState .eraseSingleBlock s) ds hds hok

/-- Settles O33: one erase, of the operand's unit. -/
theorem eraseSingleBlockErasesUnit : Obligations.EraseSingleBlockErasesUnit := by
  intro s hs hf himmediate hlo hhi
  exact eraseRun_of_unitsErased hf himmediate (execEraseSingleBlock_accepted hs hlo hhi) fun ds hds hok =>
    runMicro_eraseSingleBlock s hds hok

/-- In ASYNC mode an erase of a defined chip with nothing pending leaves its unit pending (R104, R42). -/
theorem unitErased_async {s : State} (hasync : s.platform.eraseCompletion = .async) (hpending : s.chip.pending = [])
    (hdef : s.chip.undef = false) {n : Nat} (hcount : s.opcount = s.platform.width.trunc (wordOf n)) (b : Nat) :
    unitErased b s =
      { s with
        opcount := s.platform.width.trunc (wordOf (n + 1))
        history := s.history ++ answeredOk s.history.length (eraseEvents s b)
        chip := { s.chip with pending := [unitOf s.platform b], page := [] } } := by
  have hundef : (beginSequence s.platform s.chip).undef = s.chip.undef := undefOnceBegun_of_quiet (.inr hpending)
  have hchip : commitErase s.platform b (beginSequence s.platform s.chip) =
      { s.chip with pending := [unitOf s.platform b], page := [] } := by
    rw [commitErase_async hasync b (hundef.trans hdef), hundef]
    simp [beginSequence, hpending, insertUnit]
  have hopcount : s.platform.width.trunc (s.opcount + 1) = s.platform.width.trunc (wordOf (n + 1)) :=
    (congrArg (fun v => s.platform.width.trunc (v + 1)) hcount).trans (trunc_trunc_add_one _ n)
  rw [unitErased, hchip, ← hopcount]
  rfl

/-- Settles O34: the run of O33, whose erase `unitErased_async` leaves pending. -/
theorem asyncEraseLeavesUnitPending : Obligations.AsyncEraseLeavesUnitPending := by
  intro s hs hasync hpending hdef hlo hhi
  refine ⟨_, execEraseSingleBlock_accepted hs hlo hhi, fun ds hds hok => ⟨[], ?_⟩⟩
  have hasyncErase := unitErased_async (s := acceptedState .eraseSingleBlock s) hasync hpending hdef
    (trunc_zero _).symm s.arg0.toNat
  rw [runMicro_eraseSingleBlock s hds hok, hasyncErase]
  rfl

/-! ### Units in a row -/

/-- The addresses of `n` erase units from `a` on (R225, R288). -/
def unitAddrs (s : State) (a n : Nat) : List Nat := (List.range n).map fun j => a + j * s.blockSize.toNat

theorem unitAddrs_succ (s : State) (a n : Nat) :
    unitAddrs s a (n + 1) = a :: unitAddrs s (a + s.blockSize.toNat) n := by
  simp only [unitAddrs, List.range_succ_eq_map, List.map_cons, List.map_map, Nat.zero_mul, Nat.add_zero]
  refine congrArg (a :: ·) (List.map_congr_left fun j _ => ?_)
  simp only [Function.comp_apply, Nat.succ_mul]
  omega

theorem length_unitAddrs (s : State) (a n : Nat) : (unitAddrs s a n).length = n := by simp [unitAddrs]

/-- `next` is the loop of a command that erases unit after unit: while units remain it comes to a sequence, and it
goes on whenever one has succeeded (R225, R288). -/
structure ErasesByUnits (op : Instr) (next : Session → State → State) : Prop where
  unit (ses : Session) (t : State) : ses.rem ≠ 0 → next ses t = goto op .esCmd ses t
  again (ses : Session) (t : State) : afterErase op .success ses t = next (advanceUnit t ses) t

/-- From its first unit on the loop erases every unit and comes to what follows them, every answer OK (R225). -/
theorem runMicro_units {op : Instr} {next : Session → State → State} (h : ErasesByUnits op next) (n : Nat)
    (ses : Session) (hrem : ses.rem = n) (s : State) (ds : List Draw) (hds : 4 * n ≤ ds.length) (hok : AllOk ds) :
    ∃ a, runMicro ds (next ses s) =
      runMicro (ds.drop (4 * n)) (next { ses with addr := a, rem := 0 } (unitsErased (unitAddrs s ses.addr n) s)) := by
  induction n generalizing ses s ds with
  | zero =>
    have hses : { ses with rem := 0 } = ses := by rw [← hrem]
    refine ⟨ses.addr, ?_⟩
    change runMicro ds (next ses s) = runMicro ds (next { ses with rem := 0 } s)
    rw [hses]
  | succ n ih =>
    have hunit := runMicro_eraseUnit op ses s (ds.take 4) (by rw [List.length_take]; omega)
      fun d hd => hok d (List.mem_of_mem_take hd)
    obtain ⟨a, hrest⟩ := ih (advanceUnit s ses) (by simp [advanceUnit, hrem]) (unitErased ses.addr s) (ds.drop 4)
      (by rw [List.length_drop]; omega) fun d hd => hok d (List.mem_of_mem_drop hd)
    refine ⟨a, ?_⟩
    rw [List.drop_drop, show 4 + 4 * n = 4 * (n + 1) by omega] at hrest
    rw [unitAddrs_succ, unitsErased_cons, h.unit ses s (by omega)]
    calc runMicro ds (goto op .esCmd ses s)
        = runMicro (ds.take 4 ++ ds.drop 4) (goto op .esCmd ses s) := by rw [List.take_append_drop]
      _ = runMicro (ds.drop 4) (next (advanceUnit s ses) (unitErased ses.addr s)) := by
        rw [runMicro_append, hunit, h.again]
        rfl
      _ = _ := hrest

/-! ### ERASE -/

theorem erasesByUnits_erase : ErasesByUnits .erase nextUnit := ⟨fun _ _ h => if_neg h, fun _ _ => rfl⟩

/-- The session of ERASE: the offset and the number of units (R225). -/
def eraseSession (s : State) : Session :=
  { snapshot s with addr := s.arg0.toNat, rem := s.arg1.toNat / s.blockSize.toNat }

theorem eraseFault_of_ok {s : State} {off len n unit : Nat}
    (h : n = 0 ∨ (off + len ≤ s.platform.limit ∧ s.devBase.toNat ≤ off ∧
      off + (n - 1) * unit + 1 ≤ s.devBase.toNat + s.platform.flashSize)) : eraseFault s off len n unit = none := by
  unfold eraseFault
  rcases h with hn | ⟨hlimit, hlo, hhi⟩
  · exact if_pos hn
  · rw [if_neg (Nat.not_lt.mpr hlimit), if_neg (not_not.mpr (.inr ⟨hlo, hhi⟩)), ite_self]

/-- Settles O35: the checks pass, and the loop of ERASE erases its units. -/
theorem eraseErasesUnitsInOrder : Obligations.EraseErasesUnitsInOrder := by
  intro s hs hf himmediate hunits hrange
  have hchecks : eraseFault (acceptedState .erase s) s.arg0.toNat s.arg1.toNat (s.arg1.toNat / s.blockSize.toNat)
      s.blockSize.toNat = none := eraseFault_of_ok hrange
  have hexec : exec .erase s = .next (nextUnit (eraseSession s) (acceptedState .erase s)) := by
    refine (command_accepting hs startErase).trans ?_
    rw [startErase_of_units hunits, hchecks, raiseOr_none]
    rfl
  refine eraseRun_of_unitsErased hf himmediate hexec fun ds hds hok => ?_
  rw [List.length_map, List.length_range, Nat.zero_add] at hds
  obtain ⟨a, hrun⟩ := runMicro_units erasesByUnits_erase (s.arg1.toNat / s.blockSize.toNat) (eraseSession s) rfl
    (acceptedState .erase s) ds hds.ge hok
  rw [hrun, List.drop_eq_nil_of_le hds.le]
  rfl

/-! ### ERASE_BLOCKS -/

theorem erasesByUnits_eraseBlocks : ErasesByUnits .eraseBlocks nextPairUnit :=
  ⟨fun _ _ h => if_neg h, fun _ _ => rfl⟩

theorem listWordFault_of_wordAt {s : State} {a v : Nat} (h : WordAt s a v) : listWordFault s a = none := by
  obtain ⟨hlimit, hhost, -⟩ := h
  rw [listWordFault, if_neg (Nat.not_lt.mpr hlimit), if_neg (not_not.mpr hhost)]

/-- A list word fits a register word (R160). -/
theorem toNat_wordOf_of_wordAt {s : State} {a v : Nat} (h : WordAt s a v) : (wordOf v).toNat = v := by
  obtain ⟨-, -, rfl⟩ := h
  have hlt := readBytes_lt s.mem a s.platform.width.bytes
  have hbytes : 256 ^ s.platform.width.bytes ≤ 2 ^ 64 := by cases s.platform.width <;> decide
  rw [BitVec.toNat_ofNat]
  exact Nat.mod_eq_of_lt (by omega)

/-- A list stands in host memory, which erases do not change (R160). -/
theorem listAt_congr {s t : State} (hplatform : t.platform = s.platform) (hmem : t.mem = s.mem) {p : Nat}
    {ps : List (Nat × Nat)} (h : ListAt s p ps) : ListAt t p ps := by
  have hword {a v : Nat} (h : WordAt s a v) : WordAt t a v := by
    rw [WordAt, hplatform, hmem]
    exact h
  induction ps generalizing p with
  | nil =>
    rw [ListAt, hplatform]
    exact hword h
  | cons e ps ih =>
    obtain ⟨hlba, hterm, hnum, hrest⟩ := h
    rw [ListAt, hplatform]
    exact ⟨hword hlba, hterm, hword hnum, ih hrest⟩

/-- The micro-step of the terminator (R161). -/
theorem microStep_terminator {s : State} {ses : Session} (h : WordAt s ses.buf (s.platform.limit - 1)) (d : Draw) :
    microStep d (nextPair ses s) = finish ses.firstErr s := by
  rw [nextPair, listWordFault_of_wordAt h, raiseOr_none, microStep_goto]
  exact if_pos h.2.2

/-- The micro-step of an LBA word that is no terminator, with the count word's checks passed (R288). -/
theorem microStep_lbaWord {s : State} {ses : Session} {l n : Nat} (hlba : WordAt s ses.buf l)
    (hterm : l ≠ s.platform.limit - 1) (hnum : WordAt s (ses.buf + s.platform.width.bytes) n) (d : Draw) :
    microStep d (nextPair ses s) =
      goto .eraseBlocks .listNum { ses with buf := ses.buf + s.platform.width.bytes, datum := wordOf l } s := by
  rw [nextPair, listWordFault_of_wordAt hlba, raiseOr_none, microStep_goto]
  obtain ⟨-, -, rfl⟩ := hlba
  exact (if_neg hterm).trans (congrArg (raiseOr · _ _) (listWordFault_of_wordAt hnum))

/-- The micro-step of a count word: the pair is valid or passed over (R289). -/
theorem microStep_countWord {s : State} {ses : Session} {n : Nat} (hnum : WordAt s ses.buf n) (d : Draw) :
    microStep d (goto .eraseBlocks .listNum ses s) =
      if validPair s ses.datum.toNat n then
        nextPairUnit { ses with
          buf := ses.buf + s.platform.width.bytes, addr := phys s ses.datum.toNat 0, rem := n } s
      else
        nextPair { ses with
          buf := ses.buf + s.platform.width.bytes, firstErr := keepFirst ses.firstErr .invalidParameter } s := by
  obtain ⟨-, -, rfl⟩ := hnum
  simp only [microStep_goto, microAt, contListNum, nextPairUnit_goto, nextPair_goto]
  rfl

/-- The session after the two words of the pair `(l, n)`, before its validity is known (R288). -/
def pairSession (s : State) (l : Nat) (ses : Session) : Session :=
  { ses with buf := ses.buf + 2 * s.platform.width.bytes, datum := wordOf l }

/-- The two micro-steps of a pair: its LBA word and its count word (R288, R289). -/
theorem runMicro_pair {s : State} {ses : Session} {l n : Nat} (hlba : WordAt s ses.buf l)
    (hterm : l ≠ s.platform.limit - 1) (hnum : WordAt s (ses.buf + s.platform.width.bytes) n) (d₁ d₂ : Draw)
    (ds : List Draw) :
    runMicro (d₁ :: d₂ :: ds) (nextPair ses s) = runMicro ds
      (if validPair s l n then nextPairUnit { pairSession s l ses with addr := phys s l 0, rem := n } s
        else nextPair { pairSession s l ses with firstErr := keepFirst ses.firstErr .invalidParameter } s) := by
  rw [runMicro_cons, runMicro_cons, microStep_lbaWord hlba hterm hnum,
    microStep_countWord (ses := { ses with buf := ses.buf + s.platform.width.bytes, datum := wordOf l }) hnum]
  simp only [toNat_wordOf_of_wordAt hlba, pairSession, Nat.two_mul, Nat.add_assoc]

theorem pairUnits_of_valid {s : State} {l n : Nat} (h : validPair s l n) :
    pairUnits s (l, n) = unitAddrs s (phys s l 0) n := if_pos h

theorem pairUnits_of_not_valid {s : State} {l n : Nat} (h : ¬ validPair s l n) : pairUnits s (l, n) = [] := if_neg h

theorem listStatus_cons_of_valid {s : State} {l n : Nat} (h : validPair s l n) (ps : List (Nat × Nat)) :
    listStatus s ((l, n) :: ps) = listStatus s ps :=
  if_congr (List.forall_mem_cons.trans (and_iff_right h)) rfl rfl

theorem listStatus_cons_of_not_valid {s : State} {l n : Nat} (h : ¬ validPair s l n) (ps : List (Nat × Nat)) :
    listStatus s ((l, n) :: ps) = .invalidParameter :=
  if_neg fun hall => h (hall (l, n) List.mem_cons_self)

/-- FIRST_ERR takes no second failure (R290). -/
theorem keepFirst_keepFirst (first st : Status) :
    keepFirst (keepFirst first .invalidParameter) st = keepFirst first .invalidParameter := by
  cases first <;> rfl

theorem keepFirst_success (first : Status) : keepFirst first .success = first := by
  unfold keepFirst
  split_ifs with h
  · exact h.symm
  · rfl

/-- From the list's first pair on ERASE_BLOCKS erases the units of the valid pairs and ends with the first failure,
every answer OK (R288 to R290). -/
theorem runMicro_list (ps : List (Nat × Nat)) (ses : Session) (s : State) (hlist : ListAt s ses.buf ps) (ds : List Draw)
    (hds : ds.length = 2 * ps.length + 1 + 4 * (ps.flatMap (pairUnits s)).length) (hok : AllOk ds) :
    runMicro ds (nextPair ses s) =
      finish (keepFirst ses.firstErr (listStatus s ps)) (unitsErased (ps.flatMap (pairUnits s)) s) := by
  induction ps generalizing ses s ds with
  | nil =>
    obtain ⟨d, rfl⟩ := List.length_eq_one_iff.mp hds
    rw [runMicro_cons, microStep_terminator hlist, runMicro, show listStatus s [] = .success from if_pos nofun,
      keepFirst_success]
    rfl
  | cons e ps ih =>
    obtain ⟨l, n⟩ := e
    obtain ⟨hlba, hterm, hnum, hrest⟩ := hlist
    obtain ⟨d₁, d₂, ds, rfl⟩ : ∃ d₁ d₂ es, ds = d₁ :: d₂ :: es := by
      match ds, (by simp only [List.length_cons] at hds; omega : 2 ≤ ds.length) with
      | d₁ :: d₂ :: es, _ => exact ⟨d₁, d₂, es, rfl⟩
    obtain ⟨-, -, hok⟩ : d₁.ok = true ∧ d₂.ok = true ∧ AllOk ds := by simpa [AllOk] using hok
    rw [runMicro_pair hlba hterm hnum]
    rw [List.flatMap_cons, List.length_append, List.length_cons, List.length_cons, List.length_cons] at hds
    rw [List.flatMap_cons]
    by_cases hvalid : validPair s l n
    · rw [pairUnits_of_valid hvalid, length_unitAddrs] at hds
      obtain ⟨a, hunits⟩ := runMicro_units erasesByUnits_eraseBlocks n
        { pairSession s l ses with addr := phys s l 0, rem := n } rfl s ds (by omega) hok
      have hkept := kept_unitsErased (unitAddrs s (phys s l 0) n) s
      have hnext := ih { pairSession s l ses with addr := a, rem := 0 } (unitsErased (unitAddrs s (phys s l 0) n) s)
        (listAt_congr hkept.platform (unitsErased_mem _ s) hrest) (ds.drop (4 * n))
      have hpairs : pairUnits (unitsErased (unitAddrs s (phys s l 0) n) s) = pairUnits s := by
        funext e
        simp only [pairUnits, hkept.totalBlocks, hkept.regionBase, hkept.blockSize]
      have hstatus : listStatus (unitsErased (unitAddrs s (phys s l 0) n) s) ps = listStatus s ps := by
        simp only [listStatus, hkept.totalBlocks]
      rw [hpairs, hstatus] at hnext
      rw [if_pos hvalid, hunits, pairUnits_of_valid hvalid, listStatus_cons_of_valid hvalid, unitsErased_append]
      exact hnext (by rw [List.length_drop]; omega) fun d hd => hok d (List.mem_of_mem_drop hd)
    · rw [pairUnits_of_not_valid hvalid, List.length_nil] at hds
      rw [if_neg hvalid, pairUnits_of_not_valid hvalid, listStatus_cons_of_not_valid hvalid, List.nil_append,
        ih { pairSession s l ses with firstErr := keepFirst ses.firstErr .invalidParameter } s hrest ds (by omega) hok]
      exact congrArg (finish · _) (keepFirst_keepFirst ..)

/-- Settles O36: the command comes to the first word of its list, and `runMicro_list` runs it. -/
theorem eraseBlocksErasesValidPairs : Obligations.EraseBlocksErasesValidPairs := by
  intro s ps hs hf himmediate hlist
  refine eraseRun_of_unitsErased hf himmediate (command_accepting hs startEraseBlocks) fun ds hds hok => ?_
  exact runMicro_list ps { snapshot s with buf := s.arg0.toNat, firstErr := .success } (acceptedState .eraseBlocks s)
    (listAt_congr (s := s) (t := acceptedState .eraseBlocks s) rfl rfl hlist) ds hds hok

end Sys2Proof.Proofs
end

section
/-! PROOFS. The runs of ERASE_BLOCK_RETRY (41_erase_retry.md R261 to R266). -/

namespace Sys2Proof.Proofs

open Sys2Proof Sys2Proof.Machine

/-! ### Attempts and polls -/

/-- An accepted ERASE_BLOCK_RETRY of a window address comes to its first attempt (R261). -/
theorem execEraseBlockRetry_accepted {s : State} (hs : Accepting .eraseBlockRetry s)
    (hlo : s.devBase.toNat ≤ s.arg0.toNat) (hhi : s.arg0.toNat < s.devBase.toNat + s.platform.flashSize) :
    exec .eraseBlockRetry s = .next (beginAttempt 1 (addressSession s) (acceptedState .eraseBlockRetry s)) := by
  have hchecks : eraseAddressFault (acceptedState .eraseBlockRetry s) s.arg0.toNat = none :=
    eraseAddressFault_of_inWindow hlo hhi
  calc exec .eraseBlockRetry s
      = .next (startEraseBlockRetry (snapshot s) (acceptedState .eraseBlockRetry s)) :=
        command_accepting hs startEraseBlockRetry
    _ = _ := by simp only [startEraseBlockRetry, snapshot, hchecks, raiseOr_none, addressSession]

/-- The session of attempt `n` (R261). -/
def attemptSession (n : Nat) (ses : Session) : Session := { ses with attempt := n, idx := 0 }

/-- The erase sequence of an attempt, every answer OK; polling comes next (R261, R263). -/
theorem runMicro_attempt (n : Nat) (ses : Session) (s : State) {ds : List Draw} (hds : ds.length = 4) (hok : AllOk ds) :
    runMicro ds (beginAttempt n ses s) =
      goto .eraseBlockRetry .poll (attemptSession n ses) (unitErased ses.addr { s with retryCount := wordOf n }) :=
  runMicro_eraseUnit .eraseBlockRetry (attemptSession n ses) { s with retryCount := wordOf n } ds hds hok

@[simp] theorem contPoll_goto (busy ok : Bool) (op : Instr) (k : Pos) (ses ses' : Session) (s : State) :
    contPoll busy ok ses (goto op k ses' s) = contPoll busy ok ses s := by
  simp only [contPoll, goto_platform, goto_goto, failAttempt_goto, finish_goto]

/-- The micro-step of a POLL, given its answer (R263). -/
theorem microStep_pollAnswer {s : State} {d : Draw} {busy ok : Bool}
    (h : pollAnswer s.platform s.chip d = (busy, ok)) (ses : Session) :
    microStep d (goto .eraseBlockRetry .poll ses s) = contPoll busy ok ses (emitPoll busy ok s) := by
  have hanswer : pollAnswer (goto .eraseBlockRetry .poll ses s).platform (goto .eraseBlockRetry .poll ses s).chip d =
      (busy, ok) := h
  rw [microStep_goto, microAt, hanswer]
  exact contPoll_goto busy ok .eraseBlockRetry .poll ses ses (emitPoll busy ok s)

/-- The record of poll number `n` (R154, R155). -/
def pollRecord (n : Nat) (busy ok : Bool) : BusEvent := ⟨n, .poll, none, none, none, .polled busy ok⟩

/-- The record of the poll that follows an erase sequence is the fifth from its first event. -/
theorem emitPoll_of_erased {s t : State} {b : Nat}
    (h : t.history = s.history ++ answeredOk s.history.length (eraseEvents s b)) (busy ok : Bool) :
    emitPoll busy ok t = { t with
      history := s.history ++ answeredOk s.history.length (eraseEvents s b) ++
        [pollRecord (s.history.length + 4) busy ok] } := by
  have hlength : t.history.length = s.history.length + 4 := by rw [h]; simp [eraseEvents]
  rw [emitPoll, emit, hlength, h]
  rfl

/-! ### Success at once -/

theorem pollAnswer_immediate {p : Platform} {c : Chip} (himmediate : p.eraseCompletion = .immediate)
    (hdef : c.undef = false) (d : Draw) : pollAnswer p c d = (false, true) := by
  rw [pollAnswer, if_neg (by simp [hdef]), himmediate]

/-- An attempt in IMMEDIATE mode on a defined chip, every answer OK, succeeds with its one poll (R261, R107). -/
theorem runMicro_attempt_immediate {s : State} (himmediate : s.platform.eraseCompletion = .immediate)
    (hdef : s.chip.undef = false) (n : Nat) (ses : Session) {ds : List Draw} (hds : ds.length = 5) (hok : AllOk ds) :
    runMicro ds (beginAttempt n ses s) =
      finish .success (emitPoll false true (unitErased ses.addr { s with retryCount := wordOf n })) := by
  have hne : ds ≠ [] := by rintro rfl; simp at hds
  have hdef' : (unitErased ses.addr { s with retryCount := wordOf n }).chip.undef = false := by
    rw [unitErased_immediate (s := { s with retryCount := wordOf n }) himmediate]
    exact hdef
  have hanswer := pollAnswer_immediate (p := s.platform) himmediate hdef' (ds.getLast hne)
  rw [← List.dropLast_append_getLast hne, runMicro_append,
    runMicro_attempt n ses s (by simp [hds]) fun d hd => hok d (List.mem_of_mem_dropLast hd), runMicro_cons, runMicro,
    microStep_pollAnswer (s := unitErased ses.addr { s with retryCount := wordOf n }) hanswer]
  rfl

/-- Settles O37: `runMicro_attempt_immediate` for the first attempt. -/
theorem eraseBlockRetrySucceedsAtOnce : Obligations.EraseBlockRetrySucceedsAtOnce := by
  intro s hs hf himmediate hdef hlo hhi
  refine ⟨_, execEraseBlockRetry_accepted hs hlo hhi, fun ds hds hok => ?_⟩
  have hcond := condAt_unitErased (s := acceptedState .eraseBlockRetry s) himmediate hf s.arg0.toNat
  rw [show (acceptedState .eraseBlockRetry s).chip.undef = false from hdef] at hcond
  refine ⟨_, [], ?_, canonical_unitErased (s := acceptedState .eraseBlockRetry s) hf s.arg0.toNat, hcond⟩
  rw [runMicro_attempt_immediate (s := acceptedState .eraseBlockRetry s) himmediate hdef 1 (addressSession s) hds hok,
    emitPoll_of_erased (s := s) (b := s.arg0.toNat) rfl,
    unitErased_immediate (s := { acceptedState .eraseBlockRetry s with retryCount := wordOf 1 }) himmediate,
    unitErased_immediate (s := acceptedState .eraseBlockRetry s) himmediate]
  rfl

/-! ### A failed completion -/

/-- `s` after attempt `n` in ASYNC mode on a defined chip with nothing pending, its erase completed with the outcome
`success` before the one poll, and `m` attempts begun before it (R104, R261). -/
def attemptCompleted (n m : Nat) (success : Bool) (b : Nat) (s : State) : State :=
  { s with
    retryCount := wordOf n
    opcount := s.platform.width.trunc (wordOf (m + 1))
    history := s.history ++ answeredOk s.history.length (eraseEvents s b) ++
      [pollRecord (s.history.length + 4) false success]
    chip := { s.chip with
      flash := setUnit s.platform (unitOf s.platform b) (if success then .erased else .undefined) s.chip.flash
      lastOk := success
      page := [] } }

theorem pollAnswer_async {p : Platform} {c : Chip} (hasync : p.eraseCompletion = .async) (hdef : c.undef = false)
    (hpending : c.pending = []) (d : Draw) : pollAnswer p c d = (false, c.lastOk) := by
  rw [pollAnswer, if_neg (by simp [hdef]), hasync, hpending]
  rfl

/-- The chip completes the one erase that an attempt left pending (R104). -/
theorem chipComplete_unitErased {s : State} (hasync : s.platform.eraseCompletion = .async)
    (hpending : s.chip.pending = []) (hdef : s.chip.undef = false) {m : Nat}
    (hcount : s.opcount = s.platform.width.trunc (wordOf m)) (b : Nat) (success : Bool) :
    chipComplete (unitOf s.platform b) success (unitErased b s) =
      { s with
        opcount := s.platform.width.trunc (wordOf (m + 1))
        history := s.history ++ answeredOk s.history.length (eraseEvents s b)
        chip := { s.chip with
          flash := setUnit s.platform (unitOf s.platform b) (if success then .erased else .undefined) s.chip.flash
          lastOk := success
          page := [] } } := by
  have hchip : completeErase s.platform (unitOf s.platform b) success
      { s.chip with pending := [unitOf s.platform b], page := [] } =
      { s.chip with
        flash := setUnit s.platform (unitOf s.platform b) (if success then .erased else .undefined) s.chip.flash
        lastOk := success
        page := [] } := by
    rw [completeErase_of_mem (c := { s.chip with pending := [unitOf s.platform b], page := [] })
      (List.mem_singleton_self _)]
    simp [hdef, hpending]
  rw [unitErased_async hasync hpending hdef hcount, chipComplete, hchip]

/-- An attempt whose erase the chip completes before its one poll (R261, R104, R107). -/
theorem microStep_attempt_async {s : State} (hasync : s.platform.eraseCompletion = .async)
    (hpending : s.chip.pending = []) (hdef : s.chip.undef = false) {m : Nat}
    (hcount : s.opcount = s.platform.width.trunc (wordOf m)) (n : Nat) (ses : Session) (success : Bool)
    {ds : List Draw} (hds : ds.length = 4) (hok : AllOk ds) (d : Draw) :
    microStep d (chipComplete (unitOf s.platform ses.addr) success (runMicro ds (beginAttempt n ses s))) =
      contPoll false success (attemptSession n ses) (attemptCompleted n m success ses.addr s) := by
  have hcomplete := chipComplete_unitErased (s := { s with retryCount := wordOf n }) hasync hpending hdef hcount
    ses.addr success
  have hanswer := pollAnswer_async (p := s.platform) (c := { s.chip with
    flash := setUnit s.platform (unitOf s.platform ses.addr) (if success then .erased else .undefined) s.chip.flash
    lastOk := success
    page := [] }) hasync hdef hpending d
  rw [runMicro_attempt n ses s hds hok]
  change microStep d (goto .eraseBlockRetry .poll (attemptSession n ses)
    (chipComplete (unitOf s.platform ses.addr) success (unitErased ses.addr { s with retryCount := wordOf n }))) = _
  rw [hcomplete, microStep_pollAnswer hanswer, emitPoll_of_erased (s := s) (b := ses.addr) rfl]
  rfl

/-- The first attempt of O39, which fails; the second comes next (R262). -/
theorem microStep_failedCompletion {s : State} (hasync : s.platform.eraseCompletion = .async)
    (hpending : s.chip.pending = []) (hdef : s.chip.undef = false) {ds : List Draw} (hds : ds.length = 4)
    (hok : AllOk ds) (d : Draw) :
    microStep d (chipComplete (unitOf s.platform s.arg0.toNat) false
        (runMicro ds (beginAttempt 1 (addressSession s) (acceptedState .eraseBlockRetry s)))) =
      beginAttempt 2 (attemptSession 1 (addressSession s))
        (attemptCompleted 1 0 false s.arg0.toNat (acceptedState .eraseBlockRetry s)) :=
  microStep_attempt_async (s := acceptedState .eraseBlockRetry s) hasync hpending hdef (trunc_zero _).symm 1
    (addressSession s) false hds hok d

/-- Settles O39: `microStep_attempt_async` for both attempts, the second in the state that the first left. -/
theorem retryAfterFailedCompletion : Obligations.RetryAfterFailedCompletion := by
  intro s ds es d e hs hf hasync hpending hdef hlo hhi hds hok hes hok' k
  refine ⟨_, execEraseBlockRetry_accepted hs hlo hhi, ?_⟩
  intro u v
  have hu : u = beginAttempt 2 (attemptSession 1 (addressSession s))
      (attemptCompleted 1 0 false s.arg0.toNat (acceptedState .eraseBlockRetry s)) :=
    microStep_failedCompletion hasync hpending hdef hds hok d
  have hv : v = finish .success (attemptCompleted 2 1 true s.arg0.toNat
      (attemptCompleted 1 0 false s.arg0.toNat (acceptedState .eraseBlockRetry s))) := by
    refine (congrArg (fun u => microStep e (chipComplete k true (runMicro es u))) hu).trans ?_
    exact microStep_attempt_async (s := attemptCompleted 1 0 false s.arg0.toNat (acceptedState .eraseBlockRetry s))
      hasync hpending hdef (m := 1) rfl 2 (attemptSession 1 (addressSession s)) true hes hok' e
  have hcond := condAt_setUnit hf s.platform k .undefined
  rw [hu, hv]
  refine ⟨rfl, rfl, rfl, fun x hx => (hcond x).trans (if_pos hx),
    setUnit s.platform k .erased (setUnit s.platform k .undefined s.chip.flash), [], ?_, fun x => ?_⟩
  · have hlength : (attemptCompleted 1 0 false s.arg0.toNat (acceptedState .eraseBlockRetry s)).history.length =
        s.history.length + 5 := by
      simp [attemptCompleted, acceptedState, eraseEvents]
    rw [attemptCompleted, hlength]
    rfl
  · refine (condAt_setUnit (canonical_setUnit hf s.platform k .undefined) s.platform k .erased x).trans ?_
    by_cases hx : InUnit s s.arg0.toNat x
    · exact (if_pos hx).trans (if_pos hx).symm
    · exact (if_neg hx).trans ((hcond x).trans ((if_neg hx).trans (if_neg hx).symm))

/-! ### Ten attempts that a bus error ends -/

/-- `s` after some events of one sequence: OPCOUNT counts it, and the chip and the history are the events' doing. -/
def eventsDone (c : Chip) (h : List BusEvent) (s : State) : State :=
  { s with opcount := s.platform.width.trunc (s.opcount + 1), chip := c, history := h }

/-- The positions of an erase after its first event (R222). -/
abbrev laterErasePositions : List Pos := [.esLoad, .esAddr, .esLatch]

theorem callAt_goto {k : Pos} (hk : k ∈ erasePositions) (op : Instr) (k' : Pos) (ses ses' : Session) (d : Draw)
    (s : State) : callAt k ses d (goto op k' ses' s) = goto op k' ses' (callAt k ses d s) := by
  simp only [List.mem_cons, List.not_mem_nil, or_false] at hk
  rcases hk with rfl | rfl | rfl | rfl
  · rfl
  · rfl
  · rfl
  · simp only [callAt, emitLatch]
    split <;> rfl

/-- A later event adds its record; unless it commits the erase the array stays as it is (R99, R155). -/
theorem callAt_eventsDone {k : Pos} (hk : k ∈ laterErasePositions) {d : Draw} (hd : k ≠ .esLatch ∨ d.ok = false)
    (ses : Session) (s : State) (c : Chip) (h : List BusEvent) :
    ∃ c' h', callAt k ses d (eventsDone c h s) = eventsDone c' h' s ∧ c'.flash = c.flash ∧
      h'.length = h.length + 1 := by
  simp only [List.mem_cons, List.not_mem_nil, or_false] at hk
  rcases hk with rfl | rfl | rfl
  · exact ⟨_, _, rfl, rfl, List.length_append⟩
  · exact ⟨_, _, rfl, rfl, List.length_append⟩
  · have hbad : ¬ d.ok = true := by simp [hd.resolve_left fun h => h rfl]
    rw [callAt, emitLatch, if_neg hbad]
    exact ⟨_, _, rfl, rfl, List.length_append⟩

section
variable {good bad : Draw} (hgood : good.ok = true) (hbad : bad.ok = false)

/-- The draws `ds` end an attempt that stands at position `k` by an ERROR answer, in `n` events that change no byte of
the array (R100, R262). -/
def FailsAt (k : Pos) (ses : Session) (s : State) (ds : List Draw) (n : Nat) : Prop :=
  ∀ c h, ∃ c' h', runMicro ds (goto .eraseBlockRetry k ses (eventsDone c h s)) = failAttempt ses (eventsDone c' h' s) ∧
    c'.undef = true ∧ c'.flash = c.flash ∧ h'.length = h.length + n

include hbad in
/-- An event answered ERROR fails the attempt. -/
theorem microStep_bad {k : Pos} (hk : k ∈ erasePositions) (ses : Session) (s : State) :
    microStep bad (goto .eraseBlockRetry k ses s) = failAttempt ses (callAt k ses bad s) := by
  rw [microStep_goto, microAt_erase_error hk hbad, callAt_goto hk]
  exact failAttempt_goto ..

include hbad in
theorem failsAt_bad {k : Pos} (hk : k ∈ laterErasePositions) (ses : Session) (s : State) :
    FailsAt k ses s [bad] 1 := by
  intro c h
  have hk' : k ∈ erasePositions := List.mem_cons_of_mem _ hk
  obtain ⟨c', h', heq, hflash, hlength⟩ := callAt_eventsDone hk (.inr hbad) ses s c h
  have hundef := callAt_undef_of_error (.inr hk') hbad ses (eventsDone c h s)
  rw [heq] at hundef
  refine ⟨c', h', ?_, hundef, hflash, hlength⟩
  rw [runMicro_cons, microStep_bad hbad hk', heq, runMicro]

include hgood in
/-- An event answered OK comes to the next one. -/
theorem failsAt_good {k k' : Pos} (hk : k = .esLoad ∧ k' = .esAddr ∨ k = .esAddr ∧ k' = .esLatch) {ses : Session}
    {s : State} {ds : List Draw} {n : Nat} (h : FailsAt k' ses s ds n) : FailsAt k ses s (good :: ds) (n + 1) := by
  intro c g
  have hlater : k ∈ laterErasePositions ∧ k ≠ .esLatch := by
    rcases hk with ⟨rfl, -⟩ | ⟨rfl, -⟩ <;> simp
  obtain ⟨c₁, h₁, heq, hflash, hlength⟩ := callAt_eventsDone (d := good) hlater.1 (.inl hlater.2) ses s c g
  have hstep : microStep good (goto .eraseBlockRetry k ses (eventsDone c g s)) =
      goto .eraseBlockRetry k' ses (eventsDone c₁ h₁ s) := by
    rw [← heq]
    rcases hk with ⟨rfl, rfl⟩ | ⟨rfl, rfl⟩ <;> exact if_pos hgood
  obtain ⟨c₂, h₂, hrun, hundef, hflash', hlength'⟩ := h c₁ h₁
  refine ⟨c₂, h₂, ?_, hundef, hflash'.trans hflash, by omega⟩
  rw [runMicro_cons, hstep, hrun]

include hgood hbad in
/-- An attempt in which `j` events are answered OK and the next one ERROR fails: the chip is undefined, no byte of the
array changed, and there is a record for each event (R222, R262). -/
theorem runMicro_failedAttempt {j : Nat} (hj : j < 4) (ses : Session) (s : State) :
    ∃ c h, runMicro (List.replicate j good ++ [bad]) (goto .eraseBlockRetry .esCmd ses s) =
        failAttempt ses (eventsDone c h s) ∧ c.undef = true ∧ c.flash = s.chip.flash ∧
      h.length = s.history.length + (j + 1) := by
  cases j with
  | zero =>
    refine ⟨(emitCmd bad s).chip, (emitCmd bad s).history,
      microStep_bad (k := .esCmd) hbad (by simp) ses s, callAt_undef_of_error (k := .esCmd) (by simp) hbad ses s, rfl,
      List.length_append⟩
  | succ j =>
    have hrest : FailsAt .esLoad ses s (List.replicate j good ++ [bad]) (j + 1) := by
      obtain rfl | rfl | rfl : j = 0 ∨ j = 1 ∨ j = 2 := by omega
      · exact failsAt_bad hbad (by simp) ses s
      · exact failsAt_good hgood (k' := .esAddr) (by simp) (failsAt_bad hbad (by simp) ses s)
      · exact failsAt_good hgood (k' := .esAddr) (by simp)
          (failsAt_good hgood (k' := .esLatch) (by simp) (failsAt_bad hbad (by simp) ses s))
    have hfirst : microStep good (goto .eraseBlockRetry .esCmd ses s) =
        goto .eraseBlockRetry .esLoad ses (eventsDone (emitCmd good s).chip (emitCmd good s).history s) := if_pos hgood
    have hlength : (emitCmd good s).history.length = s.history.length + 1 := List.length_append
    obtain ⟨c, h, hrun, hundef, hflash, hlength'⟩ := hrest (emitCmd good s).chip (emitCmd good s).history
    refine ⟨c, h, ?_, hundef, hflash, by omega⟩
    rw [List.replicate_succ, List.cons_append, runMicro_cons, hfirst, hrun]

include hgood hbad in
/-- Once attempts failed that leave as many of the ten as `js` has, and each of these ends by a bus error too, the
command ends with DEVICE_ERROR (R261, R262). -/
theorem runMicro_failedAttempts (js : List Nat) (hjs : ∀ j ∈ js, j < 4) (ses : Session) (s : State)
    (hten : ses.attempt + js.length = 10) (hcount : s.opcount = s.platform.width.trunc (wordOf ses.attempt))
    (hlast : js = [] → s.retryCount = 10 ∧ s.chip.undef = true) :
    ∃ c h, runMicro (js.flatMap fun j => List.replicate j good ++ [bad]) (failAttempt ses s) =
        finish .deviceError { s with
          retryCount := 10, opcount := s.platform.width.trunc (wordOf 10), chip := c, history := h } ∧
      c.undef = true ∧ c.flash = s.chip.flash ∧ h.length = s.history.length + (js.map (· + 1)).sum := by
  induction js generalizing ses s with
  | nil =>
    obtain ⟨hretry, hundef⟩ := hlast rfl
    have hattempt : ses.attempt = 10 := hten
    refine ⟨s.chip, s.history, ?_, hundef, rfl, rfl⟩
    rw [failAttempt_of_le hattempt.ge, ← hretry, ← hattempt, ← hcount]
    rfl
  | cons j js ih =>
    obtain ⟨hj, hrest⟩ := List.forall_mem_cons.mp hjs
    rw [List.length_cons] at hten
    obtain ⟨c, h, hrun, hundef, hflash, hlength⟩ := runMicro_failedAttempt hgood hbad hj
      (attemptSession (ses.attempt + 1) ses) { s with retryCount := wordOf (ses.attempt + 1) }
    have hopcount : s.platform.width.trunc (s.opcount + 1) = s.platform.width.trunc (wordOf (ses.attempt + 1)) :=
      (congrArg (fun v => s.platform.width.trunc (v + 1)) hcount).trans (trunc_trunc_add_one _ _)
    obtain ⟨c', h', hrun', hundef', hflash', hlength'⟩ := ih hrest (attemptSession (ses.attempt + 1) ses)
      (eventsDone c h { s with retryCount := wordOf (ses.attempt + 1) })
      (by simp only [attemptSession]; omega) hopcount fun hnil => ⟨by
        rw [hnil, List.length_nil] at hten
        rw [show ses.attempt = 9 by omega]
        rfl, hundef⟩
    refine ⟨c', h', ?_, hundef', hflash'.trans hflash, ?_⟩
    · rw [List.flatMap_cons, runMicro_append, failAttempt_of_lt (by omega)]
      exact (congrArg (runMicro _) hrun).trans hrun'
    · rw [hlength', List.map_cons, List.sum_cons]
      exact (congrArg (· + _) hlength).trans (Nat.add_assoc ..)

end

/-- Settles O38: the first of the ten attempts begins as after a failed one, numbered 0. -/
theorem eraseBlockRetryGivesUpAfterTen : Obligations.EraseBlockRetryGivesUpAfterTen := by
  intro s js good bad hs hlo hhi hlen hjs hgood hbad
  obtain ⟨c, h, hrun, hundef, hflash, hlength⟩ := runMicro_failedAttempts hgood hbad js hjs (addressSession s)
    (acceptedState .eraseBlockRetry s) ((Nat.zero_add _).trans hlen) (trunc_zero _).symm
    fun hnil => absurd hlen (by simp [hnil])
  exact ⟨_, execEraseBlockRetry_accepted hs hlo hhi, c, h, hrun, hundef, hflash, hlength⟩

end Sys2Proof.Proofs
end
